-- ==== Sys2Proof/Word.lean ====
section
/-! DEFINITION. The widths of the block: bytes (R8), 16-bit words (R9, R10, R100), register numbers (R41). -/

namespace Sys2Proof

/-- A register, memory byte or timer: 8 bits (R8, R48, R50). -/
abbrev Byte := BitVec 8

/-- An instruction word, `pc`, `I` or a stack slot: 16 bits (R9, R10, R46, R100). -/
abbrev Word := BitVec 16

/-- The number of a general register, a 4-bit field (R41). -/
abbrev Reg := Fin 16

/-- The number of VF, the flag register (R42). -/
abbrev regF : Reg := 15

end Sys2Proof
end

