-- ==== Sys2Proof/Syntax.lean ====
section
/-! DEFINITION. The instruction set: the 34 rows of 30_encoding.md R112, in its order. -/

namespace Sys2Proof

/-- One constructor per row of spec/opcode_table.json, with the row's fields (R101, R112). -/
inductive Instr where
  /-- CLS, 00E0 -/
  | cls
  /-- RET, 00EE -/
  | ret
  /-- JP addr, 1aaa -/
  | jp (addr : BitVec 12)
  /-- CALL addr, 2aaa -/
  | call (addr : BitVec 12)
  /-- SE Vx,byte, 3xkk -/
  | seByte (x : Reg) (byte : Byte)
  /-- SNE Vx,byte, 4xkk -/
  | sneByte (x : Reg) (byte : Byte)
  /-- SE Vx,Vy, 5xy0 -/
  | seReg (x y : Reg)
  /-- LD Vx,byte, 6xkk -/
  | ldByte (x : Reg) (byte : Byte)
  /-- ADD Vx,byte, 7xkk -/
  | addByte (x : Reg) (byte : Byte)
  /-- LD Vx,Vy, 8xy0 -/
  | ldReg (x y : Reg)
  /-- OR Vx,Vy, 8xy1 -/
  | orReg (x y : Reg)
  /-- AND Vx,Vy, 8xy2 -/
  | andReg (x y : Reg)
  /-- XOR Vx,Vy, 8xy3 -/
  | xorReg (x y : Reg)
  /-- ADD Vx,Vy, 8xy4 -/
  | addReg (x y : Reg)
  /-- SUB Vx,Vy, 8xy5 -/
  | subReg (x y : Reg)
  /-- SHR Vx, 8xy6; `y` is in the word and has no effect (R108, R192) -/
  | shr (x y : Reg)
  /-- SUBN Vx,Vy, 8xy7 -/
  | subnReg (x y : Reg)
  /-- SHL Vx, 8xyE; `y` is in the word and has no effect (R108, R193) -/
  | shl (x y : Reg)
  /-- SNE Vx,Vy, 9xy0 -/
  | sneReg (x y : Reg)
  /-- LD I,addr, Aaaa -/
  | ldI (addr : BitVec 12)
  /-- JP V0,addr, Baaa -/
  | jpV0 (addr : BitVec 12)
  /-- RND Vx,byte, Cxkk -/
  | rnd (x : Reg) (byte : Byte)
  /-- DRW Vx,Vy,n, Dxyn; `n` is a count, 0 to 15 (R103) -/
  | drw (x y : Reg) (n : Nat)
  /-- SKP Vx, Ex9E -/
  | skp (x : Reg)
  /-- SKNP Vx, ExA1 -/
  | sknp (x : Reg)
  /-- LD Vx,DT, Fx07 -/
  | ldVxDT (x : Reg)
  /-- LD Vx,K, Fx0A -/
  | ldVxK (x : Reg)
  /-- LD DT,Vx, Fx15 -/
  | ldDTVx (x : Reg)
  /-- LD ST,Vx, Fx18 -/
  | ldSTVx (x : Reg)
  /-- ADD I,Vx, Fx1E -/
  | addI (x : Reg)
  /-- LD I,F(Vx), Fx29 -/
  | ldF (x : Reg)
  /-- LD B(Vx), Fx33 -/
  | ldB (x : Reg)
  /-- LD [I],Vx, Fx55 -/
  | ldMemVx (x : Reg)
  /-- LD Vx,[I], Fx65 -/
  | ldVxMem (x : Reg)
deriving DecidableEq, Repr

end Sys2Proof
end

