-- ==== Sys2Proof/Decode.lean ====
section
/-! DEFINITION. The decoder (30_encoding.md R100 to R113), total on any word and on any bytes, and the encoder. -/

namespace Sys2Proof

/-- `op`, word[15:12] (R101). -/
def opOf (w : Word) : BitVec 4 := w.extractLsb' 12 4
/-- `x`, word[11:8] (R101). -/
def xOf (w : Word) : Reg := (w.extractLsb' 8 4).toFin
/-- `y`, word[7:4] (R101). -/
def yOf (w : Word) : Reg := (w.extractLsb' 4 4).toFin
/-- `n`, word[3:0] (R101). -/
def nOf (w : Word) : BitVec 4 := w.extractLsb' 0 4
/-- `byte`, word[7:0] (R101). -/
def byteOf (w : Word) : Byte := w.extractLsb' 0 8
/-- `addr`, word[11:0] (R101). -/
def addrOf (w : Word) : BitVec 12 := w.extractLsb' 0 12

/-- Group 0: 0x00E0 and 0x00EE only (R105). -/
def decode0 (w : Word) : Option Instr :=
  if w = 0x00E0#16 then some .cls else if w = 0x00EE#16 then some .ret else none

/-- Group 8, selected by `n` (R108). -/
def decode8 (w : Word) : Option Instr :=
  match nOf w with
  | 0x0#4 => some (.ldReg (xOf w) (yOf w))
  | 0x1#4 => some (.orReg (xOf w) (yOf w))
  | 0x2#4 => some (.andReg (xOf w) (yOf w))
  | 0x3#4 => some (.xorReg (xOf w) (yOf w))
  | 0x4#4 => some (.addReg (xOf w) (yOf w))
  | 0x5#4 => some (.subReg (xOf w) (yOf w))
  | 0x6#4 => some (.shr (xOf w) (yOf w))
  | 0x7#4 => some (.subnReg (xOf w) (yOf w))
  | 0xE#4 => some (.shl (xOf w) (yOf w))
  | _ => none

/-- Group E, selected by `byte` (R109). -/
def decodeE (w : Word) : Option Instr :=
  match byteOf w with
  | 0x9E#8 => some (.skp (xOf w))
  | 0xA1#8 => some (.sknp (xOf w))
  | _ => none

/-- Group F, selected by `byte` (R110). -/
def decodeF (w : Word) : Option Instr :=
  match byteOf w with
  | 0x07#8 => some (.ldVxDT (xOf w))
  | 0x0A#8 => some (.ldVxK (xOf w))
  | 0x15#8 => some (.ldDTVx (xOf w))
  | 0x18#8 => some (.ldSTVx (xOf w))
  | 0x1E#8 => some (.addI (xOf w))
  | 0x29#8 => some (.ldF (xOf w))
  | 0x33#8 => some (.ldB (xOf w))
  | 0x55#8 => some (.ldMemVx (xOf w))
  | 0x65#8 => some (.ldVxMem (xOf w))
  | _ => none

/-- The decoder: the instruction of a word, `none` for the tag `Undefined` (R104 to R111). -/
def decodeWord (w : Word) : Option Instr :=
  match opOf w with
  | 0x0#4 => decode0 w
  | 0x1#4 => some (.jp (addrOf w))
  | 0x2#4 => some (.call (addrOf w))
  | 0x3#4 => some (.seByte (xOf w) (byteOf w))
  | 0x4#4 => some (.sneByte (xOf w) (byteOf w))
  | 0x5#4 => if nOf w = 0#4 then some (.seReg (xOf w) (yOf w)) else none
  | 0x6#4 => some (.ldByte (xOf w) (byteOf w))
  | 0x7#4 => some (.addByte (xOf w) (byteOf w))
  | 0x8#4 => decode8 w
  | 0x9#4 => if nOf w = 0#4 then some (.sneReg (xOf w) (yOf w)) else none
  | 0xA#4 => some (.ldI (addrOf w))
  | 0xB#4 => some (.jpV0 (addrOf w))
  | 0xC#4 => some (.rnd (xOf w) (byteOf w))
  | 0xD#4 => some (.drw (xOf w) (yOf w) (nOf w).toNat)
  | 0xE#4 => decodeE w
  | _ => decodeF w

/-- Why bytes are not an instruction. -/
inductive Reject where
  /-- Fewer than two bytes are left. -/
  | truncated
  /-- The word matches no row of R112: the tag `Undefined` (R104, R113). -/
  | undefinedOpcode (word : Word)
deriving DecidableEq, Repr

/-- The word of two bytes as fetched: the first byte supplies bits 15 to 8 (R89). -/
def wordOfBytes (hi lo : Byte) : Word := hi ++ lo

/-- The bytes of a word as memory holds them, lowest address first (R89). -/
def bytesOfWord (w : Word) : List Byte := [w.extractLsb' 8 8, w.extractLsb' 0 8]

/-- Decode the first instruction of a byte string: the instruction and the bytes after it, or a named rejection. -/
def decodeBytes : List Byte → Except Reject (Instr × List Byte)
  | hi :: lo :: rest =>
    match decodeWord (wordOfBytes hi lo) with
    | some i => .ok (i, rest)
    | none => .error (.undefinedOpcode (wordOfBytes hi lo))
  | _ => .error .truncated

/-- A register number as its 4-bit field (R101). -/
def regBits (x : Reg) : BitVec 4 := BitVec.ofFin x

/-- `op`, `x` and `byte` as one word: the patterns of the form `oxkk` (R112). -/
def encXByte (op : BitVec 4) (x : Reg) (byte : Byte) : Word := op ++ regBits x ++ byte

/-- `op`, `x`, `y` and `n` as one word: the patterns of the form `oxyn` (R112). -/
def encXYN (op : BitVec 4) (x y : Reg) (n : BitVec 4) : Word := op ++ regBits x ++ regBits y ++ n

/-- `op` and `addr` as one word: the patterns of the form `oaaa` (R112). -/
def encAddr (op : BitVec 4) (addr : BitVec 12) : Word := op ++ addr

/-- The encoder, from the pattern column of R112. -/
def encode : Instr → Word
  | .cls          => 0x00E0#16
  | .ret          => 0x00EE#16
  | .jp a         => encAddr 0x1#4 a
  | .call a       => encAddr 0x2#4 a
  | .seByte x k   => encXByte 0x3#4 x k
  | .sneByte x k  => encXByte 0x4#4 x k
  | .seReg x y    => encXYN 0x5#4 x y 0x0#4
  | .ldByte x k   => encXByte 0x6#4 x k
  | .addByte x k  => encXByte 0x7#4 x k
  | .ldReg x y    => encXYN 0x8#4 x y 0x0#4
  | .orReg x y    => encXYN 0x8#4 x y 0x1#4
  | .andReg x y   => encXYN 0x8#4 x y 0x2#4
  | .xorReg x y   => encXYN 0x8#4 x y 0x3#4
  | .addReg x y   => encXYN 0x8#4 x y 0x4#4
  | .subReg x y   => encXYN 0x8#4 x y 0x5#4
  | .shr x y      => encXYN 0x8#4 x y 0x6#4
  | .subnReg x y  => encXYN 0x8#4 x y 0x7#4
  | .shl x y      => encXYN 0x8#4 x y 0xE#4
  | .sneReg x y   => encXYN 0x9#4 x y 0x0#4
  | .ldI a        => encAddr 0xA#4 a
  | .jpV0 a       => encAddr 0xB#4 a
  | .rnd x k      => encXByte 0xC#4 x k
  | .drw x y n    => encXYN 0xD#4 x y (BitVec.ofNat 4 n)
  | .skp x        => encXByte 0xE#4 x 0x9E#8
  | .sknp x       => encXByte 0xE#4 x 0xA1#8
  | .ldVxDT x     => encXByte 0xF#4 x 0x07#8
  | .ldVxK x      => encXByte 0xF#4 x 0x0A#8
  | .ldDTVx x     => encXByte 0xF#4 x 0x15#8
  | .ldSTVx x     => encXByte 0xF#4 x 0x18#8
  | .addI x       => encXByte 0xF#4 x 0x1E#8
  | .ldF x        => encXByte 0xF#4 x 0x29#8
  | .ldB x        => encXByte 0xF#4 x 0x33#8
  | .ldMemVx x    => encXByte 0xF#4 x 0x55#8
  | .ldVxMem x    => encXByte 0xF#4 x 0x65#8

/-- The mask and match of an instruction's row in the table of R112, written out as that table has them. -/
def rowOf : Instr → Word × Word
  | .cls          => (0xFFFF, 0x00E0)
  | .ret          => (0xFFFF, 0x00EE)
  | .jp _         => (0xF000, 0x1000)
  | .call _       => (0xF000, 0x2000)
  | .seByte _ _   => (0xF000, 0x3000)
  | .sneByte _ _  => (0xF000, 0x4000)
  | .seReg _ _    => (0xF00F, 0x5000)
  | .ldByte _ _   => (0xF000, 0x6000)
  | .addByte _ _  => (0xF000, 0x7000)
  | .ldReg _ _    => (0xF00F, 0x8000)
  | .orReg _ _    => (0xF00F, 0x8001)
  | .andReg _ _   => (0xF00F, 0x8002)
  | .xorReg _ _   => (0xF00F, 0x8003)
  | .addReg _ _   => (0xF00F, 0x8004)
  | .subReg _ _   => (0xF00F, 0x8005)
  | .shr _ _      => (0xF00F, 0x8006)
  | .subnReg _ _  => (0xF00F, 0x8007)
  | .shl _ _      => (0xF00F, 0x800E)
  | .sneReg _ _   => (0xF00F, 0x9000)
  | .ldI _        => (0xF000, 0xA000)
  | .jpV0 _       => (0xF000, 0xB000)
  | .rnd _ _      => (0xF000, 0xC000)
  | .drw _ _ _    => (0xF000, 0xD000)
  | .skp _        => (0xF0FF, 0xE09E)
  | .sknp _       => (0xF0FF, 0xE0A1)
  | .ldVxDT _     => (0xF0FF, 0xF007)
  | .ldVxK _      => (0xF0FF, 0xF00A)
  | .ldDTVx _     => (0xF0FF, 0xF015)
  | .ldSTVx _     => (0xF0FF, 0xF018)
  | .addI _       => (0xF0FF, 0xF01E)
  | .ldF _        => (0xF0FF, 0xF029)
  | .ldB _        => (0xF0FF, 0xF033)
  | .ldMemVx _    => (0xF0FF, 0xF055)
  | .ldVxMem _    => (0xF0FF, 0xF065)

/-- The 34 rows of R112 as (mask, match) pairs, in the table's order. -/
def opcodeRows : List (Word × Word) :=
  [(0xFFFF, 0x00E0), (0xFFFF, 0x00EE), (0xF000, 0x1000), (0xF000, 0x2000), (0xF000, 0x3000), (0xF000, 0x4000),
   (0xF00F, 0x5000), (0xF000, 0x6000), (0xF000, 0x7000)] ++
  [(0xF00F, 0x8000), (0xF00F, 0x8001), (0xF00F, 0x8002), (0xF00F, 0x8003), (0xF00F, 0x8004), (0xF00F, 0x8005),
   (0xF00F, 0x8006), (0xF00F, 0x8007), (0xF00F, 0x800E)] ++
  [(0xF00F, 0x9000), (0xF000, 0xA000), (0xF000, 0xB000), (0xF000, 0xC000), (0xF000, 0xD000), (0xF0FF, 0xE09E),
   (0xF0FF, 0xE0A1)] ++
  [(0xF0FF, 0xF007), (0xF0FF, 0xF00A), (0xF0FF, 0xF015), (0xF0FF, 0xF018), (0xF0FF, 0xF01E), (0xF0FF, 0xF029),
   (0xF0FF, 0xF033), (0xF0FF, 0xF055), (0xF0FF, 0xF065)]

/-- The word lies in a row of R112: `(word & mask) = match` (R104). -/
abbrev MatchesRow (w : Word) (row : Word × Word) : Prop := w &&& row.1 = row.2

/-- The instruction the decoder reads from a table word of `nbits` bits laid out in memory big-endian (R89, R100). -/
def decodeTableWord (nbits w : Nat) : Option Instr :=
  match decodeBytes (bytesOfWord (BitVec.ofNat 16 (w % 2 ^ nbits))) with
  | .ok (i, _) => some i
  | .error _ => none

end Sys2Proof
end

