-- ==== Sys2Proof/Config.lean ====
section
/-! DEFINITION. What is fixed when the block is built (00_scope.md R8 to R20), the ports of one scheduler pass
(10_state.md R67), and the free values: constants without a body, of which nothing can be proved. -/

namespace Sys2Proof

/-- MEM_SIZE: valid byte addresses are 0x000 to 0xFFE (R12). -/
abbrev memSize : Nat := 0xFFF

/-- PC_MOD: sequential advance is taken modulo this (R9, R25). -/
abbrev pcMod : Nat := 0x0FFE

/-- PC_RESET and ROM_BASE (R9, R14). -/
abbrev romBase : Nat := 0x200

/-- ROM_MAX, the most bytes the loader copies (R14). -/
abbrev romMax : Nat := 3583

/-- FONT_BASE (R13). -/
abbrev fontBase : Nat := 0x050

/-- The address after the font's last byte: 16 glyphs of 5 bytes (R13, R83). -/
abbrev fontEnd : Nat := 0x0A0

/-- `clock_f`, the fixed timer rate in Hz (R16). -/
abbrev clockF : ℚ := 60

/-- The 16 glyphs of 5 bytes (R13). -/
abbrev Font := Vector (Vector Byte 5) 16

/-- The six quirk flags (R18). Only `vfReset` and `memory` are read by any rule (R18, D10). -/
structure Quirks where
  vfReset  : Bool
  memory   : Bool
  dispWait : Bool
  clip     : Bool
  shift    : Bool
  jump     : Bool
deriving DecidableEq, Repr, Inhabited

/-- `UNLISTED_RESET`: what the cells hold after reset whose reset value the source does not list (R19, R57). -/
inductive UnlistedReset where
  | unwritten
  | zero
deriving DecidableEq, Repr, Inhabited

/-- A rate in Hz: a positive rational (R16). -/
structure Rate where
  val : ℚ
  pos : 0 < val
deriving DecidableEq, Repr

/-- A time in seconds: a non-negative rational (R55, R67). -/
structure Time where
  val    : ℚ := 0
  nonneg : 0 ≤ val := by decide
deriving DecidableEq, Repr, Inhabited

/-- 0 seconds. -/
abbrev Time.zero : Time := {}

/-- The construction parameters (R16, R18, R19, R13). -/
structure Config where
  quirks        : Quirks
  cycleF        : Rate
  font          : Font
  unlistedReset : UnlistedReset
deriving DecidableEq, Repr

/-- The `mode_event` port (R67, R289). -/
inductive ModeEvent where
  | none
  | halt
  | stepMode
  | run
deriving DecidableEq, Repr, Inhabited

/-- What one pass samples at its ports (R67), and which clock runs first in it: the source fixes no order and both are
admitted (R296; log 3). -/
structure PassInput where
  now        : Time
  keysIn     : BitVec 16
  event      : ModeEvent
  advance    : Bool
  timerFirst : Bool
deriving DecidableEq, Repr, Inhabited

/-- FREE VALUE: the byte the k-th oracle draw gives RND (`RandomByte`, R20, R194; log 10). -/
opaque Config.randomByte : Nat → Byte

/-- FREE VALUE: the choice the k-th oracle draw makes among the held keys (`KeyPick`, R20, R253; log 11). -/
opaque Config.keyPick : Nat → Nat

/-- FREE VALUE: what the k-th pass samples when State lists no input for it (log 2). -/
opaque Config.freePass : Nat → PassInput

end Sys2Proof
end

