-- ==== Sys2Proof/Machine/Params.lean ====
section
/-! DEFINITION. The parameters `State.reset` is built with. -/

namespace Sys2Proof

/-- The suggested FONT of R84. PRESUMED (the spec marks it general knowledge, G2; log 6). -/
def suggestedFont : Font :=
  #v[#v[0xF0, 0x90, 0x90, 0x90, 0xF0], #v[0x20, 0x60, 0x20, 0x20, 0x70],
     #v[0xF0, 0x10, 0xF0, 0x80, 0xF0], #v[0xF0, 0x10, 0xF0, 0x10, 0xF0],
     #v[0x90, 0x90, 0xF0, 0x10, 0x10], #v[0xF0, 0x80, 0xF0, 0x10, 0xF0],
     #v[0xF0, 0x80, 0xF0, 0x90, 0xF0], #v[0xF0, 0x10, 0x20, 0x40, 0x40],
     #v[0xF0, 0x90, 0xF0, 0x90, 0xF0], #v[0xF0, 0x90, 0xF0, 0x10, 0xF0],
     #v[0xF0, 0x90, 0xF0, 0x90, 0x90], #v[0xE0, 0x90, 0xE0, 0x90, 0xE0],
     #v[0xF0, 0x80, 0x80, 0x80, 0xF0], #v[0xE0, 0x90, 0x90, 0x90, 0xE0],
     #v[0xF0, 0x80, 0xF0, 0x80, 0xF0], #v[0xF0, 0x80, 0xF0, 0x80, 0x80]]

/-- The suggested "classic" quirk setting of D9. PRESUMED (G4; log 5). -/
def classicQuirks : Quirks :=
  { vfReset := true, memory := true, dispWait := true, clip := true, shift := false, jump := false }

/-- The parameters `State.reset` is built with: classic quirks (log 5), `cycle_f` = 700 (R16), the suggested font
(log 6), `UNLISTED_RESET = Zero` (DESIGN CHOICE, log 4). -/
def Config.standard : Config :=
  { quirks := classicQuirks, cycleF := { val := 700, pos := by decide }, font := suggestedFont, unlistedReset := .zero }

end Sys2Proof
end

