-- ==== Sys2Proof/Machine/State.lean ====
section
/-! DEFINITION. The state of the block (10_state.md R40 to R58), as plain data, the reasons a step can stop, and the
state right after reset (70_reset_and_hazards.md R320). -/

namespace Sys2Proof.Machine

/-- The execution state (R54, R288). -/
inductive Mode where
  | halted
  | running
  | stepping
deriving DecidableEq, Repr, Inhabited

/-- The name of a cell that `UNLISTED_RESET` governs (R57): what an UnwrittenRead records (R272). -/
inductive CellName where
  | v (x : Reg)
  | i
  | stack (slot : Fin 16)
  | disp (y : Fin 32) (x : Fin 64)
deriving DecidableEq, Repr, Inhabited

/-- The causes of R272, each with the info R56 names for it: the lowest out-of-range address, V[x], the name of the
unwritten cell, or nothing. `pc_f` and the word stand beside it in the entry. -/
inductive Cause where
  /-- A byte access at or above MEM_SIZE: fetch, DRW, LD B, LD [I],Vx, LD Vx,[I] (R273). -/
  | memoryOutOfRange (addr : Nat)
  /-- CALL at sp = 15 (R274). -/
  | stackOverflow
  /-- RET at sp = 0 (R275). -/
  | stackUnderflow
  /-- SKP or SKNP with V[x] above 0xF (R277). -/
  | keyIndexOutOfRange (key : Byte)
  /-- A read of a cell that nothing has written since reset, under `UNLISTED_RESET = Unwritten` (R278). -/
  | unwrittenRead (cell : CellName)
deriving DecidableEq, Repr, Inhabited

/-- The code of a cause (R272). -/
def Cause.code : Cause → Nat
  | .memoryOutOfRange _   => 1
  | .stackOverflow        => 2
  | .stackUnderflow       => 3
  | .keyIndexOutOfRange _ => 4
  | .unwrittenRead _      => 5

/-- What the fault register holds when it is set (R56): `word` is none (⊥) when the fetch itself faulted. -/
structure FaultEntry where
  cause : Cause
  pcF   : Word
  word  : Option Word
deriving DecidableEq, Repr, Inhabited

/-- An entry of the event log (R58, R276). -/
inductive Event where
  | undefinedOpcode (pcF : Word) (word : Word)
deriving DecidableEq, Repr, Inhabited

/-- The success or failure signal of one cycle (R70, R147). -/
inductive CycleResult where
  | success
  | failure
deriving DecidableEq, Repr, Inhabited

/-- The state. The first group is the spec's list (R40), with the marks of the cells that are still unwritten (R57);
the second group is the model's own (INVENTORY.md, State). -/
structure State where
  /-- V0 to VF (R41). -/
  v : Vector Byte 16
  /-- Which of V0 to VF are still unwritten (R57). -/
  vUnwritten : Vector Bool 16
  /-- The address register I (R43). -/
  i : Word
  /-- Whether I is still unwritten (R57). -/
  iUnwritten : Bool
  /-- The program counter (R44). -/
  pc : Word
  /-- The call stack's slots (R46). -/
  stack : Vector Word 16
  /-- Which slots are still unwritten (R57). -/
  stackUnwritten : Vector Bool 16
  /-- The stack pointer (R47). -/
  sp : Fin 16
  /-- The memory bytes that differ from the reset image, in canonical form (R48; Machine/Memory.lean). -/
  mem : List Host.Cell
  /-- The display buffer, a row of 64 cells per line, column 0 the most significant bit (R49). -/
  disp : Vector (BitVec 64) 32
  /-- Which display cells are still unwritten, laid out as `disp` is (R57). -/
  dispUnwritten : Vector (BitVec 64) 32
  /-- The delay timer (R50). -/
  dt : Byte
  /-- The sound timer (R51). -/
  st : Byte
  /-- The keypad latch: bit k is 1 while key k is held (R52). -/
  keys : BitVec 16
  /-- The execution state (R54). -/
  mode : Mode
  /-- Cycles issued since the last change of mode (R55). -/
  cyclesIssued : Nat
  /-- Timer clocks issued since the last change of mode (R55). -/
  clocksIssued : Nat
  /-- The time of the last change of mode, in seconds (R55). -/
  start : Time
  /-- The fault register (R56). -/
  fault : Option FaultEntry
  /-- The event log, oldest entry first (R58). -/
  events : List Event
  /-- MODEL'S OWN: the construction parameters, which no step changes (R53, R60; log 5). -/
  cfg : Config
  /-- MODEL'S OWN: oracle draws made so far, the argument of the free values of R20 (log 12). -/
  draws : Nat
  /-- MODEL'S OWN: the pass inputs the outside world is about to present, the next one first (R67; log 2). -/
  inputs : List PassInput
  /-- MODEL'S OWN: passes run so far, the argument of `Config.freePass` (log 2). -/
  passes : Nat
  /-- MODEL'S OWN: the last sample of the `now` port (R67, R299; log 19). -/
  now : Time
  /-- MODEL'S OWN: the render strobe of the last pass (R68; log 19). -/
  render : Bool
  /-- MODEL'S OWN: the cycle_ok output of the last pass, none when it issued no cycle (R70; log 19). -/
  cycleOk : Option CycleResult
deriving DecidableEq, Repr

/-- Why a step stops for good. No reason exists: every fault the spec describes is a value of the fault register, and
the passes go on after it (R271, R300; log 13). Safe: nothing is cut off. -/
inductive Fault
deriving DecidableEq, Repr

/-- Why the model gives an instruction no meaning. -/
inductive Refusal where
  /-- An instruction whose arm of `exec` has no meaning yet; raised by that arm alone. Safe: the run ends. -/
  | notModelled (mnemonic : String)
deriving DecidableEq, Repr

/-- The reset values for given parameters: steps 1 to 6 of R320. Memory lists nothing: an unlisted byte reads as the
zeroed memory with the font copied in. A cell of `UNLISTED_RESET` is unwritten or 0 (R57); the value under an unwritten
mark is never read (log 4). -/
def State.resetWith (cfg : Config) : State :=
  let unw : Bool := cfg.unlistedReset = .unwritten
  { v              := Vector.replicate 16 0#8
    vUnwritten     := Vector.replicate 16 unw
    i              := 0#16
    iUnwritten     := unw
    pc             := BitVec.ofNat 16 romBase
    stack          := Vector.replicate 16 0#16
    stackUnwritten := Vector.replicate 16 unw
    sp             := 0
    mem            := []
    disp           := Vector.replicate 32 0#64
    dispUnwritten  := Vector.replicate 32 (if unw then BitVec.allOnes 64 else 0#64)
    dt             := 0#8
    st             := 0#8
    keys           := 0x0000#16
    mode           := .halted
    cyclesIssued   := 0
    clocksIssued   := 0
    start          := .zero
    fault          := none
    events         := []
    cfg            := cfg
    draws          := 0
    inputs         := []
    passes         := 0
    now            := .zero
    render         := false
    cycleOk        := none }

/-- The machine right after reset, before any ROM is loaded, with the parameters of `Config.standard`. -/
def State.reset : State := State.resetWith Config.standard

end Sys2Proof.Machine
end

