-- ==== Sys2Proof/Machine/Memory.lean ====
section
/-! DEFINITION. The byte memory (20_memory.md R80 to R94): a list of (address, byte) pairs in one canonical form, with
addresses strictly rising and no entry equal to what an unlisted address reads as. -/

namespace Sys2Proof.Machine

/-- What an address that memory does not list reads as: the font at 0x050 to 0x09F, 0x00 elsewhere (R48, R83). -/
def Memory.unlisted (font : Font) (a : Nat) : Byte :=
  if h : fontBase ≤ a ∧ a < fontEnd then
    (font[(a - fontBase) / 5]'(by simp only [fontBase, fontEnd] at *; omega))[(a - fontBase) % 5]'(by omega)
  else 0x00#8

/-- The byte at an address. -/
def Memory.read (font : Font) : List Host.Cell → Nat → Byte
  | [], a => Memory.unlisted font a
  | (b, w) :: rest, a => if b = a then w else Memory.read font rest a

/-- Put a byte at its place in the rising order, replacing an entry of the same address. -/
def Memory.insert (a : Nat) (v : Byte) : List Host.Cell → List Host.Cell
  | [] => [(a, v)]
  | (b, w) :: rest =>
    if a < b then (a, v) :: (b, w) :: rest
    else if a = b then (a, v) :: rest
    else (b, w) :: Memory.insert a v rest

/-- Remove the entry of an address. -/
def Memory.erase (a : Nat) (m : List Host.Cell) : List Host.Cell := m.filter fun c => c.1 ≠ a

/-- Store a byte: the entry goes away when the byte is what the unlisted address reads as. -/
def Memory.write (font : Font) (m : List Host.Cell) (a : Nat) (v : Byte) : List Host.Cell :=
  if v = Memory.unlisted font a then Memory.erase a m else Memory.insert a v m

/-- The addresses rise strictly from one entry to the next. -/
def Memory.rising : List Host.Cell → Bool
  | [] => true
  | [_] => true
  | (a, _) :: (b, w) :: rest => decide (a < b) && Memory.rising ((b, w) :: rest)

/-- The canonical form: rising addresses, all below MEM_SIZE, no entry equal to what its address reads as unlisted. -/
def Memory.wf (font : Font) (m : List Host.Cell) : Bool :=
  Memory.rising m && m.all fun c => decide (c.1 < memSize) && decide (c.2 ≠ Memory.unlisted font c.1)

/-- The byte of the state's memory at an address: `MemRead(a, 1)` (R23). -/
def State.readMem (s : State) (a : Nat) : Byte := Memory.read s.cfg.font s.mem a

/-- Store one byte: `MemWrite(a, 1, b)` (R23). -/
def State.writeMem (s : State) (a : Nat) (b : Byte) : State :=
  { s with mem := Memory.write s.cfg.font s.mem a b }

/-- Store bytes at rising addresses from `a`, in order. -/
def State.writeBytes (s : State) (a : Nat) : List Byte → State
  | [] => s
  | b :: bs => State.writeBytes (s.writeMem a b) (a + 1) bs

/-- The lowest out-of-range address among `base` to `base + n - 1`, on unbounded integers; none when all are in range
(R87). -/
def firstBad (base n : Nat) : Option Nat :=
  ((List.range n).map (base + ·)).find? fun a => decide (memSize ≤ a)

/-- The instruction word at `pc`, big-endian; none when a byte of it is out of range (R89, R142, R143). -/
def State.fetchWord? (s : State) : Option Word :=
  match firstBad s.pc.toNat 2 with
  | none => some (wordOfBytes (s.readMem s.pc.toNat) (s.readMem (s.pc.toNat + 1)))
  | some _ => none

end Sys2Proof.Machine
end

