-- ==== Sys2Proof/Machine/Ops.lean ====
section
/-! DEFINITION. The named operations on the state: registers, program counter, call stack, display, timers, keypad,
the fault register and the event log. -/

namespace Sys2Proof.Machine

/-- What one step, cycle or meaning answers. -/
abbrev Result := Host.Outcome State Fault Refusal

/-- Go on from a next state; a stop stays a stop. -/
def mapNext (f : State → State) : Result → Result
  | .next s    => .next (f s)
  | .fault r   => .fault r
  | .refused r => .refused r

/-! ### Registers and program counter -/

/-- `V[x]` (R23, R41). -/
def State.getV (s : State) (x : Reg) : Byte := s.v[x]

/-- `V[x] <- b`: the register becomes written (R23, R278). -/
def State.setV (s : State) (x : Reg) (b : Byte) : State :=
  { s with v := s.v.set x b, vUnwritten := s.vUnwritten.set x false }

/-- `V[k] <- bytes[k]` for k = 0 to x, the other registers as before (R215). -/
def State.setVUpTo (s : State) (x : Reg) (f : Nat → Byte) : State :=
  { s with
    v          := Vector.ofFn fun k : Fin 16 => if k ≤ x then f k else s.v[k]
    vUnwritten := Vector.ofFn fun k : Fin 16 => if k ≤ x then false else s.vUnwritten[k] }

/-- `I <- a` (R23, R43). -/
def State.setI (s : State) (a : Word) : State := { s with i := a, iUnwritten := false }

/-- `pc <- a` (R23, R44). -/
def State.setPc (s : State) (a : Word) : State := { s with pc := a }

/-- `adv(a) = (a + 2) mod 0x0FFE` (R25). -/
def adv (a : Word) : Word := BitVec.ofNat 16 ((a.toNat + 2) % pcMod)

/-- The cycle's advance, `pc <- adv(pc)` (R142). A skip is one more of the same (R160). -/
def State.advance (s : State) : State := s.setPc (adv s.pc)

/-- Skip the next word when the condition holds (R160). -/
def State.skipIf (s : State) (b : Bool) : State := if b then s.advance else s

/-! ### Call stack -/

/-- `push(a)`: sp ← sp + 1, then Stack[sp] ← a (R65). -/
def State.push (s : State) (a : Word) : State :=
  { s with
    sp             := s.sp + 1
    stack          := s.stack.set (s.sp + 1).val a
    stackUnwritten := s.stackUnwritten.set (s.sp + 1).val false }

/-- The slot `Stack[sp]` that `pop` reads (R65). -/
def State.top (s : State) : Word := s.stack[s.sp]

/-- `pop()`'s change of sp: sp ← sp − 1 (R65). -/
def State.pop (s : State) : State := { s with sp := s.sp - 1 }

/-! ### Display (44_display.md) -/

/-- `Disp[y][x]` (R49). -/
def State.cell (s : State) (y : Fin 32) (x : Fin 64) : Bool := s.disp[y].getMsbD x

/-- `clear()` of the display arbiter: every cell 0 and written (R66, R231). -/
def State.clearDisp (s : State) : State :=
  { s with disp := Vector.replicate 32 0#64, dispUnwritten := Vector.replicate 32 0#64 }

/-- A sprite byte laid on a display row with its bit 7 at column `x0`: what falls beyond column 63 is clipped
(R234, R235). -/
def placed (row : Byte) (x0 : Nat) : BitVec 64 := (row.setWidth 64 <<< 56) >>> x0

/-- The sprite of `n` bytes from address `base`, laid on the 32 rows with its corner at column `x0`, row `y0`: what
falls beyond row 31 is clipped (R232, R235). A 1 marks a cell that DRW inverts. -/
def State.pattern (s : State) (base n x0 y0 : Nat) : Vector (BitVec 64) 32 :=
  Vector.ofFn fun y : Fin 32 =>
    if y0 ≤ y.val ∧ y.val < y0 + n then placed (s.readMem (base + (y.val - y0))) x0 else 0#64

/-- The arbiter's XOR write of every cell a pattern marks (R66, R232). -/
def State.xorDisp (s : State) (p : Vector (BitVec 64) 32) : State :=
  { s with disp := Vector.ofFn fun y : Fin 32 => s.disp[y] ^^^ p[y] }

/-- The eight cells from column `x0` on, leftmost in bit 7, clipped cells taken as 0 (R64). -/
def cellsUnder (row : BitVec 64) (x0 : Nat) : Byte := (row <<< x0).extractLsb' 56 8

/-- The mask of the eight columns from `x0` on that are on the screen (R64). -/
def visibleFrom (x0 : Nat) : Byte := cellsUnder (BitVec.allOnes 64) x0

/-- The collision detector: the OR over the columns of sprite bit ∧ cell ∧ visible (R64). -/
def collide (spriteRow dispRow visible : Byte) : Bool := spriteRow &&& dispRow &&& visible ≠ 0#8

/-- `hit`: the detector's output ORed over the sprite's rows that are on the screen (R64, R236). -/
def State.spriteHit (s : State) (base n x0 y0 : Nat) : Bool :=
  (List.range n).any fun r =>
    if h : y0 + r < 32 then
      collide (s.readMem (base + r)) (cellsUnder s.disp[y0 + r] x0) (visibleFrom x0)
    else false

/-- The first unwritten cell that a pattern reads, in DRW's loop order: rows downwards, columns rightwards
(R236, R280). -/
def State.firstUnwrittenCell (s : State) (p : Vector (BitVec 64) 32) : Option CellName :=
  (List.finRange 32).findSome? fun y =>
    let bad := p[y] &&& s.dispUnwritten[y]
    if bad = 0#64 then none
    else ((List.finRange 64).find? fun x : Fin 64 => bad.getMsbD x).map (CellName.disp y)

/-! ### Timers and keypad -/

/-- `DT <- b` (R251). -/
def State.setDT (s : State) (b : Byte) : State := { s with dt := b }

/-- `ST <- b` (R252). -/
def State.setST (s : State) (b : Byte) : State := { s with st := b }

/-- One decrement with a floor at zero (R285). -/
def countDown (t : Byte) : Byte := if t = 0#8 then 0#8 else t - 1#8

/-- `tick()` (R285). -/
def State.tick (s : State) : State := { s with dt := countDown s.dt, st := countDown s.st }

/-- Whether key k is held: bit k of Keys (R52, R257). -/
def State.keyHeld (s : State) (k : Nat) : Bool := s.keys.getLsbD k

/-- The held keys, lowest first (R253). -/
def heldKeys (keys : BitVec 16) : List Reg := (List.finRange 16).filter fun k : Fin 16 => keys.getLsbD k

/-- The key that a draw picks from the held ones: any of them, the only one when there is one (R20, R253; log 11). -/
def pickKey (draw : Nat) : List Reg → Reg
  | []      => 0
  | [k]     => k
  | k :: ks => (k :: ks).getD (draw % (k :: ks).length) k

/-- One more oracle draw has been made (R20; log 12). -/
def State.countDraw (s : State) : State := { s with draws := s.draws + 1 }

/-! ### Fault register and event log -/

/-- `raise`: the fault register is set and nothing else changes (R271). `pc` is the address of the faulting instruction
(a meaning runs from there and advances itself; log 1), and the recorded word is the one memory holds there, none when
it cannot be fetched (R56). A register that is already set is never reached: such a block runs no instruction (R141). -/
def State.raise (s : State) (c : Cause) : State :=
  { s with fault := some { cause := c, pcF := s.pc, word := s.fetchWord? } }

/-- An instruction that ends in `raise` (R146, R271). -/
def raised (c : Cause) (s : State) : Result := .next (s.raise c)

/-- Append `UndefinedOpcode(pc_f, word)` to the event log (R145, R276). -/
def State.logUndefined (s : State) (pcF word : Word) : State :=
  { s with events := s.events ++ [.undefinedOpcode pcF word] }

end Sys2Proof.Machine
end

