-- ==== Sys2Proof/Machine/Operands.lean ====
section
/-! DEFINITION. Reading operands: each read goes on with the value, or raises the fault the spec gives that read
(R57, R87, R278), in the order R280 gives. Also the introspection views (R69). -/

namespace Sys2Proof.Machine

/-- Read `V[x]` (R23, R278). -/
def withV (x : Reg) (s : State) (go : Byte → Result) : Result :=
  if s.vUnwritten[x] then raised (.unwrittenRead (.v x)) s else go (s.getV x)

/-- Read `I` (R23, R278). -/
def withI (s : State) (go : Word → Result) : Result :=
  if s.iUnwritten then raised (.unwrittenRead .i) s else go s.i

/-- Read `Stack[sp]` (R65, R278). -/
def withTop (s : State) (go : Word → Result) : Result :=
  if s.stackUnwritten[s.sp] then raised (.unwrittenRead (.stack s.sp)) s else go s.top

/-- Read V0 to V[x] in rising order: the first unwritten one raises (R214, R278, R280). -/
def withVUpTo (x : Reg) (s : State) (go : List Byte → Result) : Result :=
  match (List.finRange 16).find? fun k : Fin 16 => decide (k ≤ x) && s.vUnwritten[k] with
  | some k => raised (.unwrittenRead (.v k)) s
  | none   => go (((List.finRange 16).take (x.val + 1)).map s.getV)

/-- Check that the `n` bytes from `base` on are in range (R87, R209). -/
def withRange (base n : Nat) (s : State) (go : Result) : Result :=
  match firstBad base n with
  | some a => raised (.memoryOutOfRange a) s
  | none   => go

/-- A DRW of `n` rows reads I for the addresses of its rows: not at all when there are none (R232, R238; log 16). -/
def withSpriteBase (n : Nat) (s : State) (go : Nat → Result) : Result :=
  if n = 0 then go 0 else withI s fun i => go i.toNat

/-- `LD [I],Vx` and `LD Vx,[I]` under the `memory` quirk end with `I <- (I + x + 1) mod 2^16` (R216). -/
def State.bumpI (s : State) (x : Reg) : State :=
  if s.cfg.quirks.memory then s.setI (s.i + BitVec.ofNat 16 (x.val + 1)) else s

/-! ### Introspection views: read-only, never a fault; `none` is the marker `unwritten` (R57, R69) -/

/-- The host's view of V[x]. -/
def State.viewV (s : State) (x : Reg) : Option Byte := if s.vUnwritten[x] then none else some (s.getV x)

/-- The host's view of I. -/
def State.viewI (s : State) : Option Word := if s.iUnwritten then none else some s.i

/-- The host's view of a stack slot. -/
def State.viewStack (s : State) (k : Fin 16) : Option Word :=
  if s.stackUnwritten[k] then none else some s.stack[k]

/-- The host's view of a display cell; over all cells, the arbiter's read port `frame` (R66). -/
def State.viewCell (s : State) (y : Fin 32) (x : Fin 64) : Option Bool :=
  if s.dispUnwritten[y].getMsbD x then none else some (s.cell y x)

end Sys2Proof.Machine
end

