-- ==== Sys2Proof/Machine/Flags.lean ====
section
/-! DEFINITION. The ALU and its flags (42_alu.md, 10_state.md R63). -/

namespace Sys2Proof.Machine

/-- The ALU's function input `f` (R63); `addi` is the immediate add that writes no flag. -/
inductive AluFn where
  | ld | add | addi | or | and | xor | sub | subn | shr | shl | rnd
deriving DecidableEq, Repr

/-- The ALU's outputs: the result, and the flag when `flag_valid` (R63). -/
structure AluOut where
  result : Byte
  flag   : Option Byte
deriving DecidableEq, Repr

/-- A flag is 0x00 or 0x01 (R182, R237). -/
def flagByte (b : Bool) : Byte := if b then 0x01#8 else 0x00#8

/-- The carry of an addition: 1 exactly when a + b ≥ 256 (R182). -/
def carry (a b : Byte) : Bool := decide (256 ≤ a.toNat + b.toNat)

/-- The no-borrow flag of a − b: 1 exactly when a ≥ b (R190, R191). -/
def noBorrow (a b : Byte) : Bool := decide (b.toNat ≤ a.toNat)

/-- The flag of OR, AND and XOR: 0 when `vf_reset`, none otherwise (R187 to R189). -/
def logicFlag (vfReset : Bool) : Option Byte := if vfReset then some 0x00#8 else none

/-- The ALU (R63, R183 to R194). -/
def alu (vfReset : Bool) : AluFn → Byte → Byte → AluOut
  | .ld,   _, b => { result := b, flag := none }
  | .add,  a, b => { result := a + b, flag := some (flagByte (carry a b)) }
  | .addi, a, b => { result := a + b, flag := none }
  | .or,   a, b => { result := a ||| b, flag := logicFlag vfReset }
  | .and,  a, b => { result := a &&& b, flag := logicFlag vfReset }
  | .xor,  a, b => { result := a ^^^ b, flag := logicFlag vfReset }
  | .sub,  a, b => { result := a - b, flag := some (flagByte (noBorrow a b)) }
  | .subn, a, b => { result := b - a, flag := some (flagByte (noBorrow b a)) }
  | .shr,  a, _ => { result := a >>> 1, flag := some (flagByte (a.getLsbD 0)) }
  | .shl,  a, _ => { result := a <<< 1, flag := some (flagByte (a.getLsbD 7)) }
  | .rnd,  a, b => { result := a &&& b, flag := none }

/-- Write the ALU's outputs: the result to V[x], then the flag, when there is one, to VF (R181). -/
def State.writeAlu (s : State) (x : Reg) (out : AluOut) : State :=
  match out.flag with
  | none   => s.setV x out.result
  | some f => (s.setV x out.result).setV regF f

/-- An ALU instruction on V[x] and V[y] (R149, R181). -/
def aluRegs (f : AluFn) (x y : Reg) (s : State) : Result :=
  withV x s fun a => withV y s fun b => .next (s.advance.writeAlu x (alu s.cfg.quirks.vfReset f a b))

/-- An ALU instruction on V[x] alone, with an immediate as its second input (R185, R192, R193). -/
def aluOne (f : AluFn) (x : Reg) (imm : Byte) (s : State) : Result :=
  withV x s fun a => .next (s.advance.writeAlu x (alu s.cfg.quirks.vfReset f a imm))

end Sys2Proof.Machine
end

