-- ==== Sys2Proof/Machine/Alu.lean ====
section
/-! DEFINITION. The meanings of 42_alu.md. A meaning runs from the state at the instruction's address and advances
`pc` itself, so that a fault leaves `pc` at `pc_f` (R142, R146; log 1). -/

namespace Sys2Proof.Machine

/-- LD Vx,byte (R183). -/
def execLdByte (x : Reg) (byte : Byte) (s : State) : Result :=
  .next (s.advance.writeAlu x (alu s.cfg.quirks.vfReset .ld 0#8 byte))

/-- LD Vx,Vy (R184): reads V[y] only. -/
def execLdReg (x y : Reg) (s : State) : Result :=
  withV y s fun b => .next (s.advance.writeAlu x (alu s.cfg.quirks.vfReset .ld 0#8 b))

/-- ADD Vx,byte (R185). -/
def execAddByte (x : Reg) (byte : Byte) (s : State) : Result := aluOne .addi x byte s

/-- ADD Vx,Vy (R186). -/
def execAddReg (x y : Reg) (s : State) : Result := aluRegs .add x y s

/-- OR Vx,Vy (R187). -/
def execOrReg (x y : Reg) (s : State) : Result := aluRegs .or x y s

/-- AND Vx,Vy (R188). -/
def execAndReg (x y : Reg) (s : State) : Result := aluRegs .and x y s

/-- XOR Vx,Vy (R189). -/
def execXorReg (x y : Reg) (s : State) : Result := aluRegs .xor x y s

/-- SUB Vx,Vy (R190). -/
def execSubReg (x y : Reg) (s : State) : Result := aluRegs .sub x y s

/-- SUBN Vx,Vy (R191). -/
def execSubnReg (x y : Reg) (s : State) : Result := aluRegs .subn x y s

/-- SHR Vx (R192): V[y] is not read. -/
def execShr (x : Reg) (s : State) : Result := aluOne .shr x 0#8 s

/-- SHL Vx (R193): V[y] is not read. -/
def execShl (x : Reg) (s : State) : Result := aluOne .shl x 0#8 s

/-- RND Vx,byte (R194): the draw is a free value (log 10). -/
def execRnd (x : Reg) (byte : Byte) (s : State) : Result :=
  .next (s.advance.countDraw.writeAlu x (alu s.cfg.quirks.vfReset .rnd (Config.randomByte s.draws) byte))

end Sys2Proof.Machine
end

