-- ==== Sys2Proof/Machine/Control.lean ====
section
/-! DEFINITION. The meanings of 41_control_flow.md. -/

namespace Sys2Proof.Machine

/-- RET (R161). At sp = 0 the underflow is raised before any slot is read (log 15). -/
def execRet (s : State) : Result :=
  if s.sp = 0 then raised .stackUnderflow s
  else withTop s fun a => .next (s.advance.pop.setPc a)

/-- JP addr (R162). -/
def execJp (addr : BitVec 12) (s : State) : Result := .next (s.advance.setPc (addr.setWidth 16))

/-- CALL addr (R163): the pushed value is the advanced pc. -/
def execCall (addr : BitVec 12) (s : State) : Result :=
  if s.sp = 15 then raised .stackOverflow s
  else .next ((s.advance.push s.advance.pc).setPc (addr.setWidth 16))

/-- SE Vx,byte (R164). -/
def execSeByte (x : Reg) (byte : Byte) (s : State) : Result :=
  withV x s fun a => .next (s.advance.skipIf (a = byte))

/-- SE Vx,Vy (R165). -/
def execSeReg (x y : Reg) (s : State) : Result :=
  withV x s fun a => withV y s fun b => .next (s.advance.skipIf (a = b))

/-- SNE Vx,byte (R166). -/
def execSneByte (x : Reg) (byte : Byte) (s : State) : Result :=
  withV x s fun a => .next (s.advance.skipIf (a ≠ byte))

/-- SNE Vx,Vy (R167). -/
def execSneReg (x y : Reg) (s : State) : Result :=
  withV x s fun a => withV y s fun b => .next (s.advance.skipIf (a ≠ b))

/-- JP V0,addr (R168): the register is V0 whatever the `jump` flag (R171). -/
def execJpV0 (addr : BitVec 12) (s : State) : Result :=
  withV 0 s fun a => .next (s.advance.setPc (addr.setWidth 16 + a.setWidth 16))

end Sys2Proof.Machine
end

