-- ==== Sys2Proof/Machine/Display.lean ====
section
/-! DEFINITION. The meanings of 44_display.md. -/

namespace Sys2Proof.Machine

/-- CLS (R231). -/
def execCls (s : State) : Result := .next s.advance.clearDisp

/-- DRW once its operands are read and its bytes are in range: the cells under the sprite's drawn 1-bits are read, then
inverted, and VF gets the collision last (R232 to R239). -/
def drawSprite (base n x0 y0 : Nat) (s : State) : Result :=
  match s.firstUnwrittenCell (s.pattern base n x0 y0) with
  | some c => raised (.unwrittenRead c) s
  | none   =>
    .next ((s.advance.xorDisp (s.pattern base n x0 y0)).setV regF (flagByte (s.spriteHit base n x0 y0)))

/-- DRW Vx,Vy,n (R232): the start wraps, the body is clipped (R233, R235). -/
def execDrw (x y : Reg) (n : Nat) (s : State) : Result :=
  withV x s fun a => withV y s fun b => withSpriteBase n s fun base =>
    withRange base n s (drawSprite base n (a.toNat % 64) (b.toNat % 32) s)

end Sys2Proof.Machine
end

