-- ==== Sys2Proof/Machine/Index.lean ====
section
/-! DEFINITION. The meanings of 43_index_memory.md. -/

namespace Sys2Proof.Machine

/-- LD I,addr (R210). -/
def execLdI (addr : BitVec 12) (s : State) : Result := .next (s.advance.setI (addr.setWidth 16))

/-- ADD I,Vx (R211): I is read before V[x] (log 17); no flag. -/
def execAddI (x : Reg) (s : State) : Result :=
  withI s fun i => withV x s fun a => .next (s.advance.setI (i + a.setWidth 16))

/-- LD I,F(Vx) (R212): no mask on V[x]. -/
def execLdF (x : Reg) (s : State) : Result :=
  withV x s fun a => .next (s.advance.setI (BitVec.ofNat 16 (fontBase + 5 * a.toNat)))

/-- The decimal digits of a byte, hundreds first (R213). -/
def digits (v : Byte) : List Byte :=
  [BitVec.ofNat 8 (v.toNat / 100), BitVec.ofNat 8 (v.toNat / 10 % 10), BitVec.ofNat 8 (v.toNat % 10)]

/-- LD B(Vx) (R213). -/
def execLdB (x : Reg) (s : State) : Result :=
  withV x s fun a => withI s fun i => withRange i.toNat 3 s (.next (s.advance.writeBytes i.toNat (digits a)))

/-- LD [I],Vx (R214): I is read before V0 to V[x], and the range is checked after the reads (R280; log 17). -/
def execLdMemVx (x : Reg) (s : State) : Result :=
  withI s fun i => withVUpTo x s fun bytes =>
    withRange i.toNat (x.val + 1) s (.next ((s.advance.writeBytes i.toNat bytes).bumpI x))

/-- LD Vx,[I] (R215). -/
def execLdVxMem (x : Reg) (s : State) : Result :=
  withI s fun i => withRange i.toNat (x.val + 1) s
    (.next ((s.advance.setVUpTo x fun k => s.readMem (i.toNat + k)).bumpI x))

end Sys2Proof.Machine
end

