-- ==== Sys2Proof/Machine/TimersKeys.lean ====
section
/-! DEFINITION. The meanings of 45_timers_keys.md. -/

namespace Sys2Proof.Machine

/-- LD Vx,DT (R250). -/
def execLdVxDT (x : Reg) (s : State) : Result := .next (s.advance.setV x s.dt)

/-- LD DT,Vx (R251). -/
def execLdDTVx (x : Reg) (s : State) : Result := withV x s fun a => .next (s.advance.setDT a)

/-- LD ST,Vx (R252). -/
def execLdSTVx (x : Reg) (s : State) : Result := withV x s fun a => .next (s.advance.setST a)

/-- LD Vx,K (R253): with no key held, pc goes back to `pc_f`; else V[x] gets a held key, which one is a free value
(log 11). -/
def execLdVxK (x : Reg) (s : State) : Result :=
  if s.keys = 0x0000#16 then .next (s.advance.setPc s.pc)
  else .next (s.advance.countDraw.setV x (BitVec.ofNat 8 (pickKey (Config.keyPick s.draws) (heldKeys s.keys)).val))

/-- The key number in V[x]: SKP and SKNP raise when there is no such key (R254 to R256). -/
def withKey (x : Reg) (s : State) (go : Nat → Result) : Result :=
  withV x s fun k => if 0xF < k.toNat then raised (.keyIndexOutOfRange k) s else go k.toNat

/-- SKP Vx (R254). -/
def execSkp (x : Reg) (s : State) : Result :=
  withKey x s fun k => .next (s.advance.skipIf (s.keyHeld k))

/-- SKNP Vx (R255). -/
def execSknp (x : Reg) (s : State) : Result :=
  withKey x s fun k => .next (s.advance.skipIf (!s.keyHeld k))

end Sys2Proof.Machine
end

