-- ==== Sys2Proof/Machine/Scheduler.lean ====
section
/-! DEFINITION. The executor cycle (40_cycle.md) and the scheduler's pass (60_exceptions.md R288 to R300). -/

namespace Sys2Proof.Machine

/-! ### The executor cycle -/

/-- Drive the `cycle_ok` output (R70). -/
def State.signal (s : State) (r : CycleResult) : State := { s with cycleOk := some r }

/-- The signal of a defined instruction: Failure when it raised, Success otherwise (R147). -/
def State.signalDone (s : State) : State := s.signal (if s.fault.isSome then .failure else .success)

/-- A fetch that is out of range: the fault records the lowest bad address of the two bytes, and no word (R143). -/
def State.fetchFault (s : State) : State :=
  s.raise (.memoryOutOfRange ((firstBad s.pc.toNat 2).getD s.pc.toNat))

/-- An undefined word: pc advances, the event is logged, nothing else changes (R145). -/
def State.skipUndefined (s : State) (w : Word) : State := s.advance.logUndefined s.pc w

/-- `cycle()` (R140 to R147). The advance of R142 is made inside the meanings, which start at `pc_f` (log 1). -/
def cycle (s : State) : Result :=
  if s.fault.isSome then .next (s.signal .failure)
  else
    match s.fetchWord? with
    | none => .next (s.fetchFault.signal .failure)
    | some w =>
      match decodeWord w with
      | none   => .next ((s.skipUndefined w).signal .failure)
      | some i => mapNext State.signalDone (exec i s)

/-! ### The pass -/

/-- The target state of a mode event (R289). -/
def targetMode (m : Mode) : ModeEvent → Mode
  | .none     => m
  | .halt     => .halted
  | .stepMode => .stepping
  | .run      => .running

/-- The later of two times. -/
def laterTime (a b : Time) : Time := if a.val ≤ b.val then b else a

/-- Sample the ports: Keys first (R290, R301); the outputs of the pass start low. `now` does not decrease from pass to
pass (R67, R299): a sample below the last one counts as the last one again (log 18). -/
def State.sample (s : State) (p : PassInput) : State :=
  { s with keys := p.keysIn, now := laterTime s.now p.now, render := false, cycleOk := none }

/-- Take the mode event: a change of state restarts both clocks (R290, R295). -/
def State.takeEvent (s : State) (e : ModeEvent) : State :=
  if targetMode s.mode e = s.mode then s
  else { s with mode := targetMode s.mode e, cyclesIssued := 0, clocksIssued := 0, start := s.now }

/-- A clock's condition, `issued ≤ (now − start) × rate`, compared exactly on rationals (R290, R291, R293): both sides
are multiplied by the three denominators (`clockDue_iff` in Laws/Scheduler.lean says it on rationals). -/
def clockDue (issued : Nat) (rate now start : ℚ) : Bool :=
  decide ((issued : Int) * (now.den * start.den * rate.den)
    ≤ (now.num * start.den - start.num * now.den) * rate.num)

/-- Whether the cycle clock issues a cycle in this pass (R291, R292, R294). -/
def State.cycleDue (s : State) (advance : Bool) : Bool :=
  match s.mode with
  | .halted   => false
  | .running  => clockDue s.cyclesIssued s.cfg.cycleF.val s.now.val s.start.val
  | .stepping => advance

/-- Count one issued cycle (R291, R292). -/
def State.countCycle (s : State) : State := { s with cyclesIssued := s.cyclesIssued + 1 }

/-- CycleClock (R290). -/
def cycleClock (advance : Bool) (s : State) : Result :=
  if s.cycleDue advance then mapNext State.countCycle (cycle s) else .next s

/-- Whether the timer clock fires in this pass (R293). -/
def State.timerDue (s : State) : Bool := clockDue s.clocksIssued clockF s.now.val s.start.val

/-- What a firing of the timer clock does: a tick unless Halted, the render strobe, the count (R290, R293, R294). -/
def State.fireTimer (s : State) : State :=
  let t := if s.mode = .halted then s else s.tick
  { t with render := true, clocksIssued := t.clocksIssued + 1 }

/-- TimerClock (R290). -/
def State.timerClock (s : State) : State := if s.timerDue then s.fireTimer else s

/-- The two clocks in the order the pass's input gives (R296). -/
def runClocks (p : PassInput) (s : State) : Result :=
  if p.timerFirst then cycleClock p.advance s.timerClock
  else mapNext State.timerClock (cycleClock p.advance s)

/-- `pass` (R290). -/
def runPass (p : PassInput) (s : State) : Result := runClocks p ((s.sample p).takeEvent p.event)

/-! ### Where a pass's input comes from (log 2) -/

/-- The input of the next pass: the first listed one, else a free value. -/
def State.nextInput (s : State) : PassInput :=
  match s.inputs with
  | p :: _ => p
  | []     => Config.freePass s.passes

/-- The listed input is used up and the pass is counted. -/
def State.popInput (s : State) : State := { s with inputs := s.inputs.tail, passes := s.passes + 1 }

/-- The pass that runs one instruction whatever the state: a StepMode event with `advance` issues exactly one cycle
(R292, D37). The clock stands still and the keys stay as they are. DESIGN CHOICE: the cycle clock runs first in it,
where R296 leaves the order open and `step` admits both (log 3, log 20). -/
def State.stepPass (s : State) : PassInput :=
  { now := s.now, keysIn := s.keys, event := .stepMode, advance := true, timerFirst := false }

/-- `s` with the next `n` passes listed, each of which issues one cycle: how a loaded program is run one instruction at
a time, in each pass the cycle clock first, as `State.stepPass` chooses (log 20). -/
def State.withCycles (s : State) (n : Nat) : State := { s with inputs := List.replicate n s.stepPass ++ s.inputs }

/-! ### The loader -/

/-- Copy a ROM to 0x200, at most ROM_MAX bytes (R71, R322). -/
def State.loadRom (s : State) (rom : List Byte) : State := s.writeBytes romBase (rom.take romMax)

/-- VM initialization: reset with the given parameters, then the loader (R320). -/
def State.boot (cfg : Config) (rom : List Byte) : State := (State.resetWith cfg).loadRom rom

end Sys2Proof.Machine
end

