-- ==== Sys2Proof/Machine/Step.lean ====
section
/-! DEFINITION. One step of the machine is one pass of the scheduler (60_exceptions.md R290). -/

namespace Sys2Proof.Machine

/-- One pass on the next input. -/
def step (s : State) : Host.Outcome State Fault Refusal := runPass s.nextInput s.popInput

/-- `s` with a table word stored at `pc`, big-endian (R89), and the next pass set to issue one cycle: the very next
step fetches and runs it, from any state whose fault register is clear and whose `pc` can be fetched from. That pass is
`State.stepPass`, with the cycle clock first (DESIGN CHOICE; log 3, log 20). -/
def State.withFetchWord (s : State) (nbits w : Nat) : State :=
  { s.writeBytes s.pc.toNat (bytesOfWord (BitVec.ofNat 16 (w % 2 ^ nbits))) with
    inputs := s.stepPass :: s.inputs }

end Sys2Proof.Machine
end

