-- ==== Sys2Proof/Safety.lean ====
section
/-! DEFINITION. The terms in which claims about runs are made: which parts of the state an instruction may change, and
the invariants of the machine. -/

namespace Sys2Proof.Machine

/-! ### Frames -/

/-- The parts of the state that instructions act on (R40, R59). -/
inductive StatePart where
  | v | i | pc | stack | mem | disp | dt | st | fault | draws
deriving DecidableEq, Repr

/-- A part is the same in both states; memory is compared byte by byte, and as data. -/
def Same (s t : State) : StatePart → Prop
  | .v     => t.v = s.v ∧ t.vUnwritten = s.vUnwritten
  | .i     => t.i = s.i ∧ t.iUnwritten = s.iUnwritten
  | .pc    => t.pc = s.pc
  | .stack => t.sp = s.sp ∧ t.stack = s.stack ∧ t.stackUnwritten = s.stackUnwritten
  | .mem   => (∀ a, t.readMem a = s.readMem a) ∧ t.mem = s.mem
  | .disp  => t.disp = s.disp ∧ t.dispUnwritten = s.dispUnwritten
  | .dt    => t.dt = s.dt
  | .st    => t.st = s.st
  | .fault => t.fault = s.fault
  | .draws => t.draws = s.draws

/-- The parts that no instruction names are the same: Keys, the scheduler's elements, the event log, the parameters,
the pass inputs and the outputs (R52, R54, R55, R58, R59). -/
structure KeepsPlatform (s t : State) : Prop where
  keys         : t.keys = s.keys
  mode         : t.mode = s.mode
  cyclesIssued : t.cyclesIssued = s.cyclesIssued
  clocksIssued : t.clocksIssued = s.clocksIssued
  start        : t.start = s.start
  events       : t.events = s.events
  cfg          : t.cfg = s.cfg
  inputs       : t.inputs = s.inputs
  passes       : t.passes = s.passes
  now          : t.now = s.now
  render       : t.render = s.render
  cycleOk      : t.cycleOk = s.cycleOk

/-- Only the listed parts may differ. -/
def ChangesOnly (parts : List StatePart) (s t : State) : Prop :=
  KeepsPlatform s t ∧ ∀ p, p ∉ parts → Same s t p

/-- Every general register but the listed ones is the same, its mark too. -/
def KeepsRegsBut (regs : List Reg) (s t : State) : Prop :=
  ∀ z, z ∉ regs → t.getV z = s.getV z ∧ t.vUnwritten[z] = s.vUnwritten[z]

/-- The frame of an instruction that writes general registers only: the listed ones and `pc`, which goes to the next
word. -/
def WritesRegs (regs : List Reg) (s t : State) : Prop :=
  t.pc = adv s.pc ∧ KeepsRegsBut regs s t ∧ ChangesOnly [.v, .pc] s t

/-- The instruction raised the cause: the fault register records it with `pc_f` and the word, and nothing else changed
(R271). -/
def RaisesAt (i : Instr) (s : State) (c : Cause) : Prop :=
  exec i s = .next { s with fault := some { cause := c, pcF := s.pc, word := s.fetchWord? } }

/-- Every address in `[base, base + n)` is in range (R87). -/
def InRange (base n : Nat) : Prop := base + n ≤ memSize

/-- A sprite bit of 1 covers the cell (x, y) without being clipped: sprite of `n` bytes from `base`, corner (x0, y0)
(R232 to R235). -/
def Covers (s : State) (base n x0 y0 : Nat) (y : Fin 32) (x : Fin 64) : Prop :=
  ∃ r c, r < n ∧ c < 8 ∧ y.val = y0 + r ∧ x.val = x0 + c ∧ (s.readMem (base + r)).getLsbD (7 - c) = true

/-! ### Invariants -/

/-- No cell that `UNLISTED_RESET` governs is unwritten (R57). -/
structure NoneUnwritten (s : State) : Prop where
  v     : ∀ x : Reg, s.vUnwritten[x] = false
  i     : s.iUnwritten = false
  stack : ∀ k : Fin 16, s.stackUnwritten[k] = false
  disp  : ∀ y : Fin 32, s.dispUnwritten[y] = 0#64

/-- What every step keeps. -/
structure MachineInv (s : State) : Prop where
  /-- Memory is in canonical form (R48, R80). -/
  mem : Memory.wf s.cfg.font s.mem = true
  /-- pc is in the range R44 gives. -/
  pc : s.pc.toNat ≤ 0x10FE
  /-- Return addresses are advanced program counters (R142, R163). -/
  stack : ∀ k : Fin 16, s.stack[k].toNat < pcMod
  /-- Under `Zero` every cell reads without a fault (R57). -/
  zero : s.cfg.unlistedReset = .zero → NoneUnwritten s
  /-- The log holds undefined words only, fetched in range (R58, R143). -/
  events : ∀ f w, Event.undefinedOpcode f w ∈ s.events → decodeWord w = none ∧ f.toNat + 1 < memSize
  /-- A faulted block stays at the faulting instruction (R271). -/
  fault : ∀ f, s.fault = some f → f.pcF = s.pc

/-- The rate bounds of R298, with the times they rest on. -/
structure RateInv (s : State) : Prop where
  time   : s.start.val ≤ s.now.val
  clocks : (s.clocksIssued : Int) ≤ ⌊(s.now.val - s.start.val) * clockF⌋ + 1
  cycles : s.mode = .running → (s.cyclesIssued : Int) ≤ ⌊(s.now.val - s.start.val) * s.cfg.cycleF.val⌋ + 1

/-- The host keeps the law of the `now` port: what it presents next is not earlier than the last sample (R67, R299).
`State.sample` takes such a reading as it is. -/
def ClockLaw (s : State) : Prop := s.now.val ≤ s.nextInput.now.val

end Sys2Proof.Machine
end

