-- ==== Sys2Proof/Certificates/Slice0/Obligations.lean ====
section
/-! DEFINITION. The statements for the provers. Each docstring names the rule of spec/ it formalises; a clause that
rests on a choice of the model says so and names the log entry. `viewV`, `viewI`, `viewStack` and `viewCell` are the
introspection views (R69): `some b` says that the cell is written and holds `b` (R57). -/

open Sys2Proof Sys2Proof.Machine

/-! ### Encoding and decoding -/

/-- Words written out bit by bit from the pattern column of R112, one of each family and both fixed words. -/
def Obligations.SampleWordsDecode : Prop :=
  decodeWord 0b0000000011100000#16 = some .cls ∧
  decodeWord 0b0000000011101110#16 = some .ret ∧
  decodeWord 0b0010101010111100#16 = some (.call 0xABC#12) ∧
  decodeWord 0b0011101001111111#16 = some (.seByte 0xA 0x7F#8) ∧
  decodeWord 0b1000101010110110#16 = some (.shr 0xA 0xB) ∧
  decodeWord 0b1101101010110101#16 = some (.drw 0xA 0xB 5) ∧
  decodeWord 0b1110101010011110#16 = some (.skp 0xA) ∧
  decodeWord 0b1111101001100101#16 = some (.ldVxMem 0xA) ∧
  decodeWord 0b0101101010110001#16 = none

/-- R112: decoding the encoding of a well-formed instruction gives it back, with every operand. -/
def Obligations.DecodeOfEncodeIsIdentity : Prop :=
  ∀ i : Instr, WellFormed i → decodeWord (encode i) = some i

/-- R112: a word that decodes is the encoding of what it decodes to, so no bit of it is dropped. -/
def Obligations.EncodeOfDecodeIsIdentity : Prop :=
  ∀ (w : Word) (i : Instr), decodeWord w = some i → encode i = w ∧ WellFormed i

/-- R104: the decoder selects the unique row whose `(word & mask) = match`; when no row matches the tag is Undefined;
no two rows overlap. -/
def Obligations.DecoderSelectsUniqueRow : Prop :=
  (∀ (w : Word) (i : Instr), decodeWord w = some i → rowOf i ∈ opcodeRows ∧ MatchesRow w (rowOf i)) ∧
  (∀ w : Word, decodeWord w = none ↔ ∀ row ∈ opcodeRows, ¬ MatchesRow w row) ∧
  (∀ (w : Word), ∀ r ∈ opcodeRows, ∀ q ∈ opcodeRows, MatchesRow w r → MatchesRow w q → r = q)

/-- R89, R100: the decoder on bytes reads the two bytes of a big-endian word and leaves the rest. -/
def Obligations.DecodeBytesReadsBigEndianWord : Prop :=
  ∀ (w : Word) (i : Instr) (rest : List Byte), decodeWord w = some i →
    decodeBytes (w.extractLsb' 8 8 :: w.extractLsb' 0 8 :: rest) = .ok (i, rest) ∧
    decodeTableWord 16 w.toNat = some i

/-! ### The cycle and the step -/

/-- R140, R290: when the pass issues a cycle, the fault register is clear and the bytes at pc decode to `i`, the step is
`exec i` with what the pass adds around it: the ports are sampled and the mode event taken before, the timer clock runs
before or after, the cycle is counted and its signal driven after. -/
def Obligations.StepRunsDecodedInstruction : Prop :=
  ∀ (s : State) (i : Instr) (w : Word), s.fault = none → s.fetchWord? = some w → decodeWord w = some i →
    let s0 := (s.popInput.sample s.nextInput).takeEvent s.nextInput.event
    let s1 := if s.nextInput.timerFirst then s0.timerClock else s0
    s1.cycleDue s.nextInput.advance = true →
      step s = mapNext (fun t => if s.nextInput.timerFirst then t.signalDone.countCycle
        else t.signalDone.countCycle.timerClock) (exec i s1)

/-- R89, R142, R143: there is a fetched word exactly when both bytes at pc are in range, and it is big-endian: the byte
at pc supplies bits 15 to 8. -/
def Obligations.FetchReadsBigEndianWordInRange : Prop :=
  ∀ (s : State) (w : Word), s.fetchWord? = some w ↔
    s.pc.toNat + 1 < 0xFFF ∧ w.toNat = (s.readMem s.pc.toNat).toNat * 256 + (s.readMem (s.pc.toNat + 1)).toNat

/-- R143: a fetch out of range raises MemoryOutOfRange with the lowest bad address, before any state change; the
advance never yields such a pc. -/
def Obligations.FetchOutOfRangeFaults : Prop :=
  (∀ s : State, s.fault = none → 0xFFE ≤ s.pc.toNat →
    cycle s = .next { s with
      fault := some { cause := .memoryOutOfRange (max s.pc.toNat 0xFFF), pcF := s.pc, word := none }
      cycleOk := some .failure }) ∧
  ∀ a : Word, (adv a).toNat < 0xFFE

/-- R145: an Undefined word is a no-op: pc is advanced, the event is appended, the cycle returns Failure, and no other
state changes. -/
def Obligations.UndefinedWordIsReportedNoOp : Prop :=
  ∀ (s : State) (w : Word), s.fault = none → s.fetchWord? = some w → decodeWord w = none →
    cycle s = .next { s with
      pc := adv s.pc
      events := s.events ++ [.undefinedOpcode s.pc w]
      cycleOk := some .failure }

/-- R141: with the fault register set a cycle changes no state and returns Failure. -/
def Obligations.FaultedBlockExecutesNothing : Prop :=
  ∀ s : State, s.fault ≠ none → cycle s = .next { s with cycleOk := some .failure }

/-- R147: the cycle returns Success exactly when a defined instruction completed without raising. -/
def Obligations.CycleSignalsSuccess : Prop :=
  ∀ s t : State, cycle s = .next t →
    (t.cycleOk = some .success ↔
      s.fault = none ∧ t.fault = none ∧ ∃ w i, s.fetchWord? = some w ∧ decodeWord w = some i) ∧
    (t.cycleOk = some .success ∨ t.cycleOk = some .failure)

/-- R142: after a fetch that did not fault, the advance gives pc_f + 2, and wraps to 0x000 and 0x001 from 0xFFC and
0xFFD. -/
def Obligations.AdvanceAddsTwoAndWraps : Prop :=
  ∀ a : Word, a.toNat ≤ 0xFFD →
    (a.toNat ≤ 0xFFB → (adv a).toNat = a.toNat + 2) ∧
    (a.toNat = 0xFFC → (adv a).toNat = 0x000) ∧
    (a.toNat = 0xFFD → (adv a).toNat = 0x001)

/-- Every instruction and every step answers a next state: no condition stops the block for good (R270, R271, R300;
that the spec's faults are next states is log 13). -/
def Obligations.EveryInstructionAndStepAnswersNext : Prop :=
  (∀ (i : Instr) (s : State), ∃ t, exec i s = .next t) ∧ (∀ s : State, ∃ t, step s = .next t)

/-! ### Register file and ALU -/

/-- R183, R184, R250: loads of a register. -/
def Obligations.RegisterLoads : Prop :=
  ∀ (s : State) (x y : Reg) (byte b : Byte),
    (∃ t, exec (.ldByte x byte) s = .next t ∧ t.viewV x = some byte ∧ WritesRegs [x] s t) ∧
    (s.viewV y = some b → ∃ t, exec (.ldReg x y) s = .next t ∧ t.viewV x = some b ∧ WritesRegs [x] s t) ∧
    (∃ t, exec (.ldVxDT x) s = .next t ∧ t.viewV x = some s.dt ∧ WritesRegs [x] s t)

/-- R185: the immediate add wraps and writes no flag. -/
def Obligations.AddImmediateWritesNoFlag : Prop :=
  ∀ (s : State) (x : Reg) (byte a : Byte), s.viewV x = some a →
    ∃ t, exec (.addByte x byte) s = .next t ∧
      t.viewV x = some (BitVec.ofNat 8 ((a.toNat + byte.toNat) % 256)) ∧ WritesRegs [x] s t

/-- R181, R182, R186: the register add; VF is the carry, written last. -/
def Obligations.AddRegistersSetsCarry : Prop :=
  ∀ (s : State) (x y : Reg) (a b : Byte), s.viewV x = some a → s.viewV y = some b →
    ∃ t, exec (.addReg x y) s = .next t ∧
      (x ≠ 15 → t.viewV x = some (BitVec.ofNat 8 ((a.toNat + b.toNat) % 256))) ∧
      t.viewV 15 = some (if 256 ≤ a.toNat + b.toNat then 1 else 0) ∧ WritesRegs [x, 15] s t

/-- R187, R188, R189: OR, AND and XOR bit by bit; VF is cleared exactly when `vf_reset` is true, after the result is
written. -/
def Obligations.LogicInstructions : Prop :=
  ∀ (s : State) (x y : Reg) (a b : Byte), s.viewV x = some a → s.viewV y = some b →
    ∀ p ∈ [(Instr.orReg x y, fun p q : Bool => p || q), (Instr.andReg x y, fun p q : Bool => p && q),
        (Instr.xorReg x y, fun p q : Bool => p != q)],
      ∃ t r, exec p.1 s = .next t ∧ (∀ k < 8, r.getLsbD k = p.2 (a.getLsbD k) (b.getLsbD k)) ∧
        (s.cfg.quirks.vfReset = true →
          t.viewV 15 = some 0 ∧ (x ≠ 15 → t.viewV x = some r) ∧ WritesRegs [x, 15] s t) ∧
        (s.cfg.quirks.vfReset = false → t.viewV x = some r ∧ WritesRegs [x] s t)

/-- R182, R190, R191: SUB and SUBN wrap below zero; VF is the no-borrow flag, written last. -/
def Obligations.SubtractionsSetNoBorrow : Prop :=
  ∀ (s : State) (x y : Reg) (a b : Byte), s.viewV x = some a → s.viewV y = some b →
    (∃ t, exec (.subReg x y) s = .next t ∧
      (x ≠ 15 → t.viewV x =
        some (BitVec.ofNat 8 (if b.toNat ≤ a.toNat then a.toNat - b.toNat else a.toNat + 256 - b.toNat))) ∧
      t.viewV 15 = some (if b.toNat ≤ a.toNat then 1 else 0) ∧ WritesRegs [x, 15] s t) ∧
    (∃ t, exec (.subnReg x y) s = .next t ∧
      (x ≠ 15 → t.viewV x =
        some (BitVec.ofNat 8 (if a.toNat ≤ b.toNat then b.toNat - a.toNat else b.toNat + 256 - a.toNat))) ∧
      t.viewV 15 = some (if a.toNat ≤ b.toNat then 1 else 0) ∧ WritesRegs [x, 15] s t)

/-- R192, R193: SHR and SHL shift V[x], whatever V[y] holds and whether or not it is written; VF is the bit shifted
out, written last. -/
def Obligations.ShiftsSetBitShiftedOut : Prop :=
  ∀ (s : State) (x y : Reg) (a : Byte), s.viewV x = some a →
    (∃ t, exec (.shr x y) s = .next t ∧
      (x ≠ 15 → t.viewV x = some (BitVec.ofNat 8 (a.toNat / 2))) ∧
      t.viewV 15 = some (BitVec.ofNat 8 (a.toNat % 2)) ∧ WritesRegs [x, 15] s t) ∧
    (∃ t, exec (.shl x y) s = .next t ∧
      (x ≠ 15 → t.viewV x = some (BitVec.ofNat 8 (a.toNat * 2 % 256))) ∧
      t.viewV 15 = some (BitVec.ofNat 8 (a.toNat / 128)) ∧ WritesRegs [x, 15] s t)

/-- R194: RND masks a draw; it holds for every value of the free byte. The draw counter is the model's own (log 10,
log 12). -/
def Obligations.RandomByteIsMasked : Prop :=
  ∀ (s : State) (x : Reg) (byte : Byte),
    ∃ t r, exec (.rnd x byte) s = .next t ∧ r = Config.randomByte s.draws ∧ t.viewV x = some (r &&& byte) ∧
      t.pc = adv s.pc ∧ t.draws = s.draws + 1 ∧ KeepsRegsBut [x] s t ∧ ChangesOnly [.v, .pc, .draws] s t

/-! ### Control flow and the call stack -/

/-- R162, R168: the jumps write pc and nothing else; JP V0 does not wrap its sum, and raises UnwrittenRead of V0 only.
-/
def Obligations.JumpsWriteProgramCounterOnly : Prop :=
  ∀ (s : State) (addr : BitVec 12) (a : Byte),
    exec (.jp addr) s = .next { s with pc := BitVec.ofNat 16 addr.toNat } ∧
    (s.viewV 0 = some a →
      exec (.jpV0 addr) s = .next { s with pc := BitVec.ofNat 16 (addr.toNat + a.toNat) } ∧
      (BitVec.ofNat 16 (addr.toNat + a.toNat)).toNat = addr.toNat + a.toNat) ∧
    (s.viewV 0 = none → RaisesAt (.jpV0 addr) s (.unwrittenRead (.v 0)))

/-- R163, R65: CALL pushes the advanced pc on the next slot and jumps; every other slot is kept. -/
def Obligations.CallPushesReturnAddress : Prop :=
  ∀ (s : State) (addr : BitVec 12), s.sp.val < 15 →
    ∃ t, exec (.call addr) s = .next t ∧ t.sp.val = s.sp.val + 1 ∧ t.pc.toNat = addr.toNat ∧
      (∀ k : Fin 16, k.val = s.sp.val + 1 → t.viewStack k = some (adv s.pc)) ∧
      (∀ k : Fin 16, k.val ≠ s.sp.val + 1 →
        t.stack[k] = s.stack[k] ∧ t.stackUnwritten[k] = s.stackUnwritten[k]) ∧
      ChangesOnly [.stack, .pc] s t

/-- R161, R65: RET jumps to the slot sp points at and lowers sp; the slots are kept. -/
def Obligations.ReturnPopsReturnAddress : Prop :=
  ∀ (s : State) (a : Word), 0 < s.sp.val → s.viewStack s.sp = some a →
    ∃ t, exec .ret s = .next t ∧ t.pc = a ∧ t.sp.val + 1 = s.sp.val ∧
      t.stack = s.stack ∧ t.stackUnwritten = s.stackUnwritten ∧ ChangesOnly [.stack, .pc] s t

/-- R170: a CALL followed at once by a RET leaves pc after the CALL and sp as before. -/
def Obligations.CallThenReturnRestores : Prop :=
  ∀ (s : State) (addr : BitVec 12), s.sp.val ≤ 14 →
    ∃ t u, exec (.call addr) s = .next t ∧ exec .ret t = .next u ∧ u.pc = adv s.pc ∧ u.sp = s.sp

/-- R160, R164 to R167: the compare-and-skip instructions change pc only; a skip is one more advance. -/
def Obligations.SkipInstructions : Prop :=
  ∀ (s : State) (x y : Reg) (byte a b : Byte), s.viewV x = some a →
    exec (.seByte x byte) s = .next { s with pc := if a = byte then adv (adv s.pc) else adv s.pc } ∧
    exec (.sneByte x byte) s = .next { s with pc := if a ≠ byte then adv (adv s.pc) else adv s.pc } ∧
    (s.viewV y = some b →
      exec (.seReg x y) s = .next { s with pc := if a = b then adv (adv s.pc) else adv s.pc } ∧
      exec (.sneReg x y) s = .next { s with pc := if a ≠ b then adv (adv s.pc) else adv s.pc })

/-- R47: sp moves by one, and only by a CALL below 15 or a RET above 0. -/
def Obligations.StackPointerMovesByOne : Prop :=
  ∀ (i : Instr) (s t : State), exec i s = .next t →
    t.sp = s.sp ∨ (∃ addr, i = .call addr ∧ t.sp.val = s.sp.val + 1) ∨ (i = .ret ∧ t.sp.val + 1 = s.sp.val)

/-! ### Address register and memory -/

/-- R210, R211, R212: the loads of I; no flag, no mask. -/
def Obligations.AddressRegisterLoads : Prop :=
  ∀ (s : State) (x : Reg) (addr : BitVec 12) (i : Word) (a : Byte),
    (∃ t, exec (.ldI addr) s = .next t ∧ t.viewI = some (BitVec.ofNat 16 addr.toNat) ∧ t.pc = adv s.pc ∧
      ChangesOnly [.i, .pc] s t) ∧
    (s.viewI = some i → s.viewV x = some a →
      ∃ t, exec (.addI x) s = .next t ∧ t.viewI = some (BitVec.ofNat 16 ((i.toNat + a.toNat) % 65536)) ∧
        t.pc = adv s.pc ∧ ChangesOnly [.i, .pc] s t) ∧
    (s.viewV x = some a →
      ∃ t, exec (.ldF x) s = .next t ∧ t.viewI = some (BitVec.ofNat 16 (0x050 + 5 * a.toNat)) ∧
        t.pc = adv s.pc ∧ ChangesOnly [.i, .pc] s t)

/-- R213: LD B stores the three decimal digits at I, I + 1 and I + 2; no other byte and nothing else changes. -/
def Obligations.DecimalDigitsAreStored : Prop :=
  ∀ (s : State) (x : Reg) (i : Word) (v : Byte), s.viewV x = some v → s.viewI = some i → InRange i.toNat 3 →
    ∃ t, exec (.ldB x) s = .next t ∧
      (t.readMem i.toNat).toNat = v.toNat / 100 ∧
      (t.readMem (i.toNat + 1)).toNat = v.toNat / 10 % 10 ∧
      (t.readMem (i.toNat + 2)).toNat = v.toNat % 10 ∧
      (∀ a, a < i.toNat ∨ i.toNat + 3 ≤ a → t.readMem a = s.readMem a) ∧
      t.pc = adv s.pc ∧ ChangesOnly [.mem, .pc] s t

/-- R214, R216: LD [I],Vx stores V0 to V[x] from I on; I grows by x + 1 under the `memory` quirk only. -/
def Obligations.RegistersAreStored : Prop :=
  ∀ (s : State) (x : Reg) (i : Word), s.viewI = some i → (∀ k : Reg, k ≤ x → s.vUnwritten[k] = false) →
    InRange i.toNat (x.val + 1) →
    ∃ t, exec (.ldMemVx x) s = .next t ∧
      (∀ k : Reg, k ≤ x → t.readMem (i.toNat + k.val) = s.getV k) ∧
      (∀ a, a < i.toNat ∨ i.toNat + (x.val + 1) ≤ a → t.readMem a = s.readMem a) ∧
      t.viewI = some (if s.cfg.quirks.memory then BitVec.ofNat 16 ((i.toNat + x.val + 1) % 65536) else i) ∧
      t.pc = adv s.pc ∧ ChangesOnly [.mem, .i, .pc] s t

/-- R215, R216: LD Vx,[I] loads V0 to V[x] from I on; the registers above x are kept; I grows by x + 1 under the
`memory` quirk only. -/
def Obligations.RegistersAreLoaded : Prop :=
  ∀ (s : State) (x : Reg) (i : Word), s.viewI = some i → InRange i.toNat (x.val + 1) →
    ∃ t, exec (.ldVxMem x) s = .next t ∧
      (∀ k : Reg, k ≤ x → t.viewV k = some (s.readMem (i.toNat + k.val))) ∧
      (∀ k : Reg, x < k → t.getV k = s.getV k ∧ t.vUnwritten[k] = s.vUnwritten[k]) ∧
      t.viewI = some (if s.cfg.quirks.memory then BitVec.ofNat 16 ((i.toNat + x.val + 1) % 65536) else i) ∧
      t.pc = adv s.pc ∧ ChangesOnly [.v, .i, .pc] s t

/-- R217: with `memory` false, a store followed by a load of the same registers leaves V0 to V[x] and I as they were;
with `memory` true, the load reads from I0 + x + 1 and I ends at I0 + 2(x + 1). Either way the load gives the values
back once I is put back to I0. Premises (R214, R215): I and V0 to V[x] are written, the stored bytes are in range, and
under `memory` true so are the loaded ones. -/
def Obligations.StoreThenLoadRoundTrip : Prop :=
  ∀ (s : State) (x : Reg) (i : Word), s.viewI = some i → (∀ k : Reg, k ≤ x → s.vUnwritten[k] = false) →
    InRange i.toNat (x.val + 1) →
    ∃ t w, exec (.ldMemVx x) s = .next t ∧ exec (.ldVxMem x) (t.setI i) = .next w ∧
      (∀ k : Reg, k ≤ x → w.viewV k = s.viewV k) ∧
      (s.cfg.quirks.memory = false →
        ∃ u, exec (.ldVxMem x) t = .next u ∧ (∀ k : Reg, k ≤ x → u.viewV k = s.viewV k) ∧ u.viewI = s.viewI) ∧
      (s.cfg.quirks.memory = true → InRange i.toNat (2 * (x.val + 1)) →
        ∃ u, exec (.ldVxMem x) t = .next u ∧
          (∀ k : Reg, k ≤ x → u.viewV k = some (s.readMem (i.toNat + (x.val + 1) + k.val))) ∧
          u.viewI = some (BitVec.ofNat 16 (i.toNat + 2 * (x.val + 1))))

/-- R87, R209, R239, R273: an access of which any byte is out of range raises MemoryOutOfRange at the lowest such
address, once its registers are read (R280); DRW's check covers rows that would be clipped, and comes before any cell
is read. -/
def Obligations.DataAccessOutOfRangeFaults : Prop :=
  ∀ (s : State) (x y : Reg) (n : Nat) (i : Word) (a b : Byte), s.viewI = some i →
    (s.viewV x = some a → ¬ InRange i.toNat 3 → RaisesAt (.ldB x) s (.memoryOutOfRange (max i.toNat 0xFFF))) ∧
    ((∀ k : Reg, k ≤ x → s.vUnwritten[k] = false) → ¬ InRange i.toNat (x.val + 1) →
      RaisesAt (.ldMemVx x) s (.memoryOutOfRange (max i.toNat 0xFFF))) ∧
    (¬ InRange i.toNat (x.val + 1) → RaisesAt (.ldVxMem x) s (.memoryOutOfRange (max i.toNat 0xFFF))) ∧
    (s.viewV x = some a → s.viewV y = some b → 0 < n → ¬ InRange i.toNat n →
      RaisesAt (.drw x y n) s (.memoryOutOfRange (max i.toNat 0xFFF)))

/-! ### Display -/

/-- R231: CLS makes every cell a written 0 and changes nothing else. -/
def Obligations.ClearMakesEveryCellZero : Prop :=
  ∀ s : State, ∃ t, exec .cls s = .next t ∧ (∀ y x, t.viewCell y x = some false) ∧ t.pc = adv s.pc ∧
    ChangesOnly [.disp, .pc] s t

/-- R232 to R237: DRW inverts exactly the cells that an unclipped sprite bit of 1 covers, and VF is 1 exactly when such
a cell held 1 before; nothing else changes. A DRW of no rows does not read I (R238; log 16). -/
def Obligations.DrawInvertsCoveredCells : Prop :=
  ∀ (s : State) (x y : Reg) (n : Nat) (a b : Byte), s.viewV x = some a → s.viewV y = some b →
    (0 < n → s.iUnwritten = false ∧ InRange s.i.toNat n) →
    (∀ cy cx, Covers s s.i.toNat n (a.toNat % 64) (b.toNat % 32) cy cx → (s.viewCell cy cx).isSome) →
    ∃ t, exec (.drw x y n) s = .next t ∧
      (∀ cy cx, Covers s s.i.toNat n (a.toNat % 64) (b.toNat % 32) cy cx → t.cell cy cx = !s.cell cy cx) ∧
      (∀ cy cx, ¬ Covers s s.i.toNat n (a.toNat % 64) (b.toNat % 32) cy cx → t.cell cy cx = s.cell cy cx) ∧
      ((∃ cy cx, Covers s s.i.toNat n (a.toNat % 64) (b.toNat % 32) cy cx ∧ s.cell cy cx = true) →
        t.viewV 15 = some 1) ∧
      ((¬ ∃ cy cx, Covers s s.i.toNat n (a.toNat % 64) (b.toNat % 32) cy cx ∧ s.cell cy cx = true) →
        t.viewV 15 = some 0) ∧
      t.dispUnwritten = s.dispUnwritten ∧ t.pc = adv s.pc ∧ KeepsRegsBut [15] s t ∧
      ChangesOnly [.v, .disp, .pc] s t

/-- R236, R278, R280: when the first cell in loop order that the sprite reads and nothing has written is (cx, cy), DRW
raises UnwrittenRead of that cell. -/
def Obligations.DrawOverUnwrittenCellFaults : Prop :=
  ∀ (s : State) (x y : Reg) (n : Nat) (a b : Byte) (cy : Fin 32) (cx : Fin 64),
    s.viewV x = some a → s.viewV y = some b → s.iUnwritten = false → InRange s.i.toNat n →
    Covers s s.i.toNat n (a.toNat % 64) (b.toNat % 32) cy cx → s.viewCell cy cx = none →
    (∀ dy dx, Covers s s.i.toNat n (a.toNat % 64) (b.toNat % 32) dy dx → s.viewCell dy dx = none →
      cy < dy ∨ (cy = dy ∧ cx ≤ dx)) →
    RaisesAt (.drw x y n) s (.unwrittenRead (.disp cy cx))

/-- R241: drawing the same sprite twice at the same place restores every cell; VF is 1 on the second draw exactly when
some covered cell was 0 before the first. The premise that V[x] and V[y] are the same on the second draw can fail only
when one of them is VF. -/
def Obligations.DrawTwiceRestoresDisplay : Prop :=
  ∀ (s : State) (x y : Reg) (n : Nat) (a b : Byte), s.viewV x = some a → s.viewV y = some b →
    (0 < n → s.iUnwritten = false ∧ InRange s.i.toNat n) →
    (∀ cy cx, Covers s s.i.toNat n (a.toNat % 64) (b.toNat % 32) cy cx → (s.viewCell cy cx).isSome) →
    ∃ t, exec (.drw x y n) s = .next t ∧
      (x ≠ 15 → t.viewV x = some a) ∧ (y ≠ 15 → t.viewV y = some b) ∧
      (t.viewV x = some a → t.viewV y = some b →
        ∃ u, exec (.drw x y n) t = .next u ∧
          (∀ cy cx, u.cell cy cx = s.cell cy cx) ∧
          ((∃ cy cx, Covers s s.i.toNat n (a.toNat % 64) (b.toNat % 32) cy cx ∧ s.cell cy cx = false) →
            u.viewV 15 = some 1) ∧
          ((¬ ∃ cy cx, Covers s s.i.toNat n (a.toNat % 64) (b.toNat % 32) cy cx ∧ s.cell cy cx = false) →
            u.viewV 15 = some 0))

/-! ### Timers and keypad -/

/-- R251, R252: the loads of the timers. -/
def Obligations.TimerLoads : Prop :=
  ∀ (s : State) (x : Reg) (a : Byte), s.viewV x = some a →
    exec (.ldDTVx x) s = .next { s with dt := a, pc := adv s.pc } ∧
    exec (.ldSTVx x) s = .next { s with st := a, pc := adv s.pc }

/-- R253: with no key held LD Vx,K leaves the whole state, pc at its own address; else V[x] gets a key that is held,
whichever it is, and that key when only one is held. The draw counter is the model's own (log 11, log 12). -/
def Obligations.WaitForKey : Prop :=
  ∀ (s : State) (x : Reg),
    (s.keys = 0x0000#16 → exec (.ldVxK x) s = .next s) ∧
    (s.keys ≠ 0x0000#16 →
      ∃ t k, exec (.ldVxK x) s = .next t ∧ k < 16 ∧ s.keyHeld k = true ∧ t.viewV x = some (BitVec.ofNat 8 k) ∧
        t.pc = adv s.pc ∧ KeepsRegsBut [x] s t ∧ ChangesOnly [.v, .pc, .draws] s t ∧
        ∀ j : Reg, (∀ m : Reg, s.keyHeld m.val = true ↔ m = j) → k = j.val)

/-- R254, R255, R160: SKP and SKNP change pc only. -/
def Obligations.SkipOnKey : Prop :=
  ∀ (s : State) (x : Reg) (a : Byte), s.viewV x = some a → a.toNat ≤ 0xF →
    exec (.skp x) s = .next { s with pc := if s.keyHeld a.toNat then adv (adv s.pc) else adv s.pc } ∧
    exec (.sknp x) s = .next { s with pc := if s.keyHeld a.toNat then adv s.pc else adv (adv s.pc) }

/-- R274, R275, R277: CALL at sp = 15 raises StackOverflow, RET at sp = 0 raises StackUnderflow, SKP and SKNP raise
KeyIndexOutOfRange when V[x] > 0x0F. That RET at sp = 0 does so before it reads a slot is log 15. -/
def Obligations.StackAndKeyLimitsFault : Prop :=
  ∀ (s : State) (addr : BitVec 12) (x : Reg) (a : Byte),
    (s.sp.val = 15 → RaisesAt (.call addr) s .stackOverflow) ∧
    (s.sp.val = 0 → RaisesAt .ret s .stackUnderflow) ∧
    (s.viewV x = some a → 0x0F < a.toNat →
      RaisesAt (.skp x) s (.keyIndexOutOfRange a) ∧ RaisesAt (.sknp x) s (.keyIndexOutOfRange a))

/-! ### Faults and whole-machine rules -/

/-- R271: when an instruction sets the fault register it changes nothing else, and the entry records pc_f and the word
fetched there. -/
def Obligations.RaiseIsPrecise : Prop :=
  ∀ (i : Instr) (s t : State), s.fault = none → exec i s = .next t → t.fault ≠ none →
    ∃ f, t = { s with fault := some f } ∧ f.pcF = s.pc ∧ f.word = s.fetchWord?

/-- R278, R280: an unwritten operand raises UnwrittenRead of the first one in reading order. The order of I and V[x] in
ADD I,Vx and of I and V0 to V[x] in LD [I],Vx is read from the pseudocode (log 17). -/
def Obligations.UnwrittenOperandFaults : Prop :=
  ∀ (s : State) (x y : Reg) (byte : Byte) (addr : BitVec 12) (n : Nat),
    (s.viewV x = none →
      (∀ i ∈ [Instr.seByte x byte, .sneByte x byte, .seReg x y, .sneReg x y, .addByte x byte, .ldReg y x,
          .orReg x y, .andReg x y, .xorReg x y, .addReg x y, .subReg x y, .shr x y, .subnReg x y, .shl x y,
          .drw x y n, .skp x, .sknp x, .ldDTVx x, .ldSTVx x, .ldF x, .ldB x],
        RaisesAt i s (.unwrittenRead (.v x))) ∧
      (s.iUnwritten = false → RaisesAt (.addI x) s (.unwrittenRead (.v x))) ∧
      ((∀ k : Reg, k < x → s.vUnwritten[k] = false) → s.iUnwritten = false → x ≤ y →
        RaisesAt (.ldMemVx y) s (.unwrittenRead (.v x)))) ∧
    (s.vUnwritten[x] = false → s.viewV y = none →
      ∀ i ∈ [Instr.seReg x y, .sneReg x y, .orReg x y, .andReg x y, .xorReg x y, .addReg x y, .subReg x y,
          .subnReg x y, .drw x y n],
        RaisesAt i s (.unwrittenRead (.v y))) ∧
    (s.viewV 0 = none → RaisesAt (.jpV0 addr) s (.unwrittenRead (.v 0))) ∧
    (s.viewI = none →
      (∀ i ∈ [Instr.addI x, .ldMemVx x, .ldVxMem x], RaisesAt i s (.unwrittenRead .i)) ∧
      (s.vUnwritten[x] = false → RaisesAt (.ldB x) s (.unwrittenRead .i)) ∧
      (s.vUnwritten[x] = false → s.vUnwritten[y] = false → 0 < n → RaisesAt (.drw x y n) s (.unwrittenRead .i))) ∧
    (0 < s.sp.val → s.viewStack s.sp = none → RaisesAt .ret s (.unwrittenRead (.stack s.sp)))

/-- R57, R278: with no cell unwritten, no instruction raises UnwrittenRead, and none becomes unwritten. -/
def Obligations.NoUnwrittenReadWhenAllWritten : Prop :=
  ∀ (i : Instr) (s t : State), NoneUnwritten s → exec i s = .next t →
    NoneUnwritten t ∧ (s.fault = none → ∀ f, t.fault = some f → ∀ c, f.cause ≠ .unwrittenRead c)

/-- R52, R54, R55, R58, R59: no instruction changes Keys, the scheduler's elements, the event log, the parameters or
the pass inputs and outputs. -/
def Obligations.InstructionsKeepPlatform : Prop :=
  ∀ (i : Instr) (s t : State), exec i s = .next t → KeepsPlatform s t

/-- R46, R80, R230, R250 to R252: which instructions can change memory, the display, the stack, the timers and I. -/
def Obligations.WritersOfEachStore : Prop :=
  ∀ (i : Instr) (s t : State), exec i s = .next t →
    ((∀ x, i ≠ .ldB x ∧ i ≠ .ldMemVx x) → Same s t .mem) ∧
    ((i ≠ .cls ∧ ∀ x y n, i ≠ .drw x y n) → Same s t .disp) ∧
    ((i ≠ .ret ∧ ∀ addr, i ≠ .call addr) → Same s t .stack) ∧
    ((∀ x, i ≠ .ldDTVx x) → Same s t .dt) ∧
    ((∀ x, i ≠ .ldSTVx x) → Same s t .st) ∧
    ((∀ addr x, i ≠ .ldI addr ∧ i ≠ .addI x ∧ i ≠ .ldF x ∧ i ≠ .ldMemVx x ∧ i ≠ .ldVxMem x) → Same s t .i)

/-! ### Timers and scheduler -/

/-- R285: a tick decrements both timers by at most one, with a floor at zero, and changes nothing else. -/
def Obligations.TickCountsDownToZero : Prop :=
  ∀ s : State,
    s.tick.dt.toNat = s.dt.toNat - 1 ∧ s.tick.st.toNat = s.st.toNat - 1 ∧
    s.tick = { s with dt := s.tick.dt, st := s.tick.st }

/-- R52, R54, R289, R301: a step loads Keys from the port, and the mode is the one its event names; no event leaves it.
-/
def Obligations.ModeEventsSetMode : Prop :=
  ∀ s t : State, step s = .next t →
    t.keys = s.nextInput.keysIn ∧
    t.mode = (match s.nextInput.event with
      | .none => s.mode | .halt => .halted | .stepMode => .stepping | .run => .running)

/-- R295: a change of mode restarts both clocks in that pass: start is the pass's sample of `now` (the port's reading,
where the host keeps the law of R299; log 18), elapsed is 0, so the timer clock fires, in Running one cycle is
issued too, and in Halted none (R294); an event that names the current mode restarts nothing. -/
def Obligations.ChangeOfModeRestartsClocks : Prop :=
  ∀ s t : State, step s = .next t →
    (ClockLaw s → t.now = s.nextInput.now) ∧
    (t.mode ≠ s.mode → t.start = t.now ∧ t.clocksIssued = 1 ∧ t.render = true ∧
      (t.mode = .running → t.cyclesIssued = 1 ∧ t.cycleOk ≠ none) ∧
      (t.mode = .stepping → t.cyclesIssued = if s.nextInput.advance then 1 else 0) ∧
      (t.mode = .halted → t.cyclesIssued = 0 ∧ t.cycleOk = none)) ∧
    (t.mode = s.mode → t.start = s.start ∧ s.cyclesIssued ≤ t.cyclesIssued ∧ s.clocksIssued ≤ t.clocksIssued)

/-- R294, R305: a pass in Halted issues no cycle and no tick: everything instructions act on is kept, and the log. -/
def Obligations.HaltedPassKeepsState : Prop :=
  ∀ s : State, targetMode s.mode s.nextInput.event = .halted →
    ∃ t, step s = .next t ∧ (∀ p : StatePart, Same s t p) ∧ t.events = s.events ∧ t.cycleOk = none

/-- R291, R292, R297: in Running a pass that changes no mode issues a cycle exactly when
`cycles_issued ≤ elapsed × cycle_f`, elapsed being taken to the pass's sample of `now` (the port's reading, where the
host keeps the law of R299; log 18); in Stepping exactly when `advance` is true; never more than one. A pass that issues
none, in any mode, keeps everything instructions act on but the timers, and the log; and no pass changes the parameters
(R53). -/
def Obligations.CycleClockIssuesAtMostOneCycle : Prop :=
  ∀ s t : State, step s = .next t →
    (ClockLaw s → t.now = s.nextInput.now) ∧
    (t.mode = s.mode →
      (t.mode = .running →
        (t.cycleOk ≠ none ↔ (s.cyclesIssued : ℚ) ≤ (t.now.val - s.start.val) * s.cfg.cycleF.val)) ∧
      (t.mode = .stepping → (t.cycleOk ≠ none ↔ s.nextInput.advance = true)) ∧
      t.cyclesIssued = s.cyclesIssued + (if t.cycleOk.isSome then 1 else 0)) ∧
    (t.cycleOk = none → (∀ p : StatePart, p ≠ .dt → p ≠ .st → Same s t p) ∧ t.events = s.events) ∧
    t.cfg = s.cfg

/-- R293, R294: in a pass that changes no mode the timer clock fires exactly when `clocks_issued ≤ elapsed × 60`,
elapsed being taken to the pass's sample of `now` (the port's reading, where the host keeps the law of R299; log 18);
then render is asserted and clocks_issued grows by one, and otherwise neither. R287, R290: in every pass whose cycle, if any,
is no load of the timer, a firing outside Halted lowers it by one to zero, and nothing else changes it. -/
def Obligations.RenderMarksTimerClock : Prop :=
  ∀ s t : State, step s = .next t →
    (ClockLaw s → t.now = s.nextInput.now) ∧
    (t.mode = s.mode →
      (t.render = true ↔ (s.clocksIssued : ℚ) ≤ (t.now.val - s.start.val) * 60) ∧
      t.clocksIssued = s.clocksIssued + (if t.render then 1 else 0)) ∧
    ((t.cycleOk = none ∨ ∀ w x, s.fetchWord? = some w → decodeWord w ≠ some (.ldDTVx x)) →
      t.dt.toNat = if t.render = true ∧ t.mode ≠ .halted then s.dt.toNat - 1 else s.dt.toNat) ∧
    ((t.cycleOk = none ∨ ∀ w x, s.fetchWord? = some w → decodeWord w ≠ some (.ldSTVx x)) →
      t.st.toNat = if t.render = true ∧ t.mode ≠ .halted then s.st.toNat - 1 else s.st.toNat)

/-- R296: the order of the two clocks in a pass matters only when the instruction at pc is one that reads or loads a
timer. -/
def Obligations.ClockOrderMattersToTimerInstructionsOnly : Prop :=
  ∀ (s : State) (p : PassInput),
    (∀ w i x, s.fetchWord? = some w → decodeWord w = some i → i ≠ .ldVxDT x ∧ i ≠ .ldDTVx x ∧ i ≠ .ldSTVx x) →
    runPass { p with timerFirst := true } s = runPass { p with timerFirst := false } s

/-- R50, R51, R251, R252: DT does not grow in a step unless the instruction at pc is LD DT,Vx, nor ST unless it is
LD ST,Vx. -/
def Obligations.DelayTimerGrowsByLoadOnly : Prop :=
  ∀ s t : State, step s = .next t →
    (t.dt.toNat ≤ s.dt.toNat ∨ ∃ w x, s.fetchWord? = some w ∧ decodeWord w = some (.ldDTVx x)) ∧
    (t.st.toNat ≤ s.st.toNat ∨ ∃ w x, s.fetchWord? = some w ∧ decodeWord w = some (.ldSTVx x))

/-- R141, R271, R300: once the fault register is set no step changes it, nor anything an instruction acts on but the
timers, which go on counting down. -/
def Obligations.FaultIsStickyAndTimersGoOn : Prop :=
  ∀ s t : State, s.fault ≠ none → step s = .next t →
    (∀ p : StatePart, p ≠ .dt → p ≠ .st → Same s t p) ∧ t.events = s.events ∧
    (t.render = true → t.mode ≠ .halted → t.dt.toNat = s.dt.toNat - 1 ∧ t.st.toNat = s.st.toNat - 1) ∧
    (t.cycleOk = none ∨ t.cycleOk = some .failure)

/-- R58, R276: a step appends at most one event, for the undefined word at pc, and removes none. -/
def Obligations.EventLogGrowsByUndefinedWordsOnly : Prop :=
  ∀ s t : State, step s = .next t →
    t.events = s.events ∨
    ∃ w, s.fault = none ∧ s.fetchWord? = some w ∧ decodeWord w = none ∧
      t.events = s.events ++ [.undefinedOpcode s.pc w] ∧ t.pc = adv s.pc

/-! ### Reset, loading and invariants -/

/-- R41 to R58, R320 (steps 1 to 6): the reset values the spec gives, for any parameters. Under `Zero` every unlisted
cell reads 0, under `Unwritten` every one is unwritten (R57). The fields of the model's own are not mentioned. -/
def Obligations.ResetValues : Prop :=
  ∀ cfg : Config, let s := State.resetWith cfg
    s.pc = 0x200#16 ∧ s.sp = 0 ∧ s.dt = 0 ∧ s.st = 0 ∧ s.keys = 0 ∧ s.mode = .halted ∧
    s.cyclesIssued = 0 ∧ s.clocksIssued = 0 ∧ s.start.val = 0 ∧ s.fault = none ∧ s.events = [] ∧ s.cfg = cfg ∧
    (∀ a, a < 0x050 ∨ 0x0A0 ≤ a → s.readMem a = 0x00#8) ∧
    (∀ d r, (hd : d < 16) → (hr : r < 5) → s.readMem (0x050 + 5 * d + r) = cfg.font[d][r]) ∧
    (cfg.unlistedReset = .zero →
      (∀ x, s.viewV x = some 0) ∧ s.viewI = some 0 ∧ (∀ k, s.viewStack k = some 0) ∧
      (∀ y x, s.viewCell y x = some false)) ∧
    (cfg.unlistedReset = .unwritten →
      (∀ x, s.viewV x = none) ∧ s.viewI = none ∧ (∀ k, s.viewStack k = none) ∧ (∀ y x, s.viewCell y x = none))

/-- R71, R322: the loader copies the ROM's first 3583 bytes to 0x200 on and changes no other byte and nothing else. -/
def Obligations.LoaderCopiesRom : Prop :=
  ∀ (cfg : Config) (rom : List Byte),
    (∀ k, (h : k < min rom.length 3583) → (State.boot cfg rom).readMem (0x200 + k) = rom[k]'(by omega)) ∧
    (∀ a, a < 0x200 ∨ 0x200 + min rom.length 3583 ≤ a →
      (State.boot cfg rom).readMem a = (State.resetWith cfg).readMem a) ∧
    State.boot cfg rom = { State.resetWith cfg with mem := (State.boot cfg rom).mem }

/-- The invariant of Safety.lean holds after initialization, with any parameters and any ROM. -/
def Obligations.BootMeetsInvariant : Prop :=
  (∀ (cfg : Config) (rom : List Byte), MachineInv (State.boot cfg rom)) ∧ MachineInv State.reset

/-- R44, R48, R57, R58, R80, R163, R271: every step keeps the invariant of Safety.lean: memory in canonical form and
within the address space, pc at most 0x10FE, return addresses below 0x0FFE, nothing unwritten under `Zero`, only
undefined words in the log, and a faulted block at its faulting instruction. -/
def Obligations.StepKeepsInvariant : Prop :=
  ∀ s t : State, MachineInv s → step s = .next t → MachineInv t

/-- R298: every step keeps the rate bounds, and they hold after initialization. R67, R299: `now` does not decrease, and
a reading not earlier than the last sample is taken as it is. `now` as a field, and what becomes of an earlier reading,
are the model's own (log 18, log 19). -/
def Obligations.RateBoundsAreKept : Prop :=
  (∀ (cfg : Config) (rom : List Byte), RateInv (State.boot cfg rom)) ∧
  (∀ s t : State, RateInv s → step s = .next t → RateInv t) ∧
  (∀ s t : State, step s = .next t → s.now.val ≤ t.now.val ∧ (ClockLaw s → t.now = s.nextInput.now))
end

