-- ==== Sys2Proof/Laws/State.lean ====
section
/-! SUPPORT. What each update of the state does to each of its fields, true by rfl: no proof unfolds a record
update. -/

namespace Sys2Proof.Machine.State

variable (s : State)

/-! ### setV -/

@[simp] theorem setV_v (x : Reg) (b : Byte) : (s.setV x b).v = s.v.set x b := rfl
@[simp] theorem setV_vUnwritten (x : Reg) (b : Byte) : (s.setV x b).vUnwritten = s.vUnwritten.set x false := rfl
@[simp] theorem setV_i (x : Reg) (b : Byte) : (s.setV x b).i = s.i := rfl
@[simp] theorem setV_iUnwritten (x : Reg) (b : Byte) : (s.setV x b).iUnwritten = s.iUnwritten := rfl
@[simp] theorem setV_pc (x : Reg) (b : Byte) : (s.setV x b).pc = s.pc := rfl
@[simp] theorem setV_stack (x : Reg) (b : Byte) : (s.setV x b).stack = s.stack := rfl
@[simp] theorem setV_stackUnwritten (x : Reg) (b : Byte) : (s.setV x b).stackUnwritten = s.stackUnwritten := rfl
@[simp] theorem setV_sp (x : Reg) (b : Byte) : (s.setV x b).sp = s.sp := rfl
@[simp] theorem setV_mem (x : Reg) (b : Byte) : (s.setV x b).mem = s.mem := rfl
@[simp] theorem setV_disp (x : Reg) (b : Byte) : (s.setV x b).disp = s.disp := rfl
@[simp] theorem setV_dispUnwritten (x : Reg) (b : Byte) : (s.setV x b).dispUnwritten = s.dispUnwritten := rfl
@[simp] theorem setV_dt (x : Reg) (b : Byte) : (s.setV x b).dt = s.dt := rfl
@[simp] theorem setV_st (x : Reg) (b : Byte) : (s.setV x b).st = s.st := rfl
@[simp] theorem setV_keys (x : Reg) (b : Byte) : (s.setV x b).keys = s.keys := rfl
@[simp] theorem setV_mode (x : Reg) (b : Byte) : (s.setV x b).mode = s.mode := rfl
@[simp] theorem setV_cyclesIssued (x : Reg) (b : Byte) : (s.setV x b).cyclesIssued = s.cyclesIssued := rfl
@[simp] theorem setV_clocksIssued (x : Reg) (b : Byte) : (s.setV x b).clocksIssued = s.clocksIssued := rfl
@[simp] theorem setV_start (x : Reg) (b : Byte) : (s.setV x b).start = s.start := rfl
@[simp] theorem setV_fault (x : Reg) (b : Byte) : (s.setV x b).fault = s.fault := rfl
@[simp] theorem setV_events (x : Reg) (b : Byte) : (s.setV x b).events = s.events := rfl
@[simp] theorem setV_cfg (x : Reg) (b : Byte) : (s.setV x b).cfg = s.cfg := rfl
@[simp] theorem setV_draws (x : Reg) (b : Byte) : (s.setV x b).draws = s.draws := rfl
@[simp] theorem setV_inputs (x : Reg) (b : Byte) : (s.setV x b).inputs = s.inputs := rfl
@[simp] theorem setV_passes (x : Reg) (b : Byte) : (s.setV x b).passes = s.passes := rfl
@[simp] theorem setV_now (x : Reg) (b : Byte) : (s.setV x b).now = s.now := rfl
@[simp] theorem setV_render (x : Reg) (b : Byte) : (s.setV x b).render = s.render := rfl
@[simp] theorem setV_cycleOk (x : Reg) (b : Byte) : (s.setV x b).cycleOk = s.cycleOk := rfl

/-! ### setI -/

@[simp] theorem setI_v (a : Word) : (s.setI a).v = s.v := rfl
@[simp] theorem setI_vUnwritten (a : Word) : (s.setI a).vUnwritten = s.vUnwritten := rfl
@[simp] theorem setI_i (a : Word) : (s.setI a).i = a := rfl
@[simp] theorem setI_iUnwritten (a : Word) : (s.setI a).iUnwritten = false := rfl
@[simp] theorem setI_pc (a : Word) : (s.setI a).pc = s.pc := rfl
@[simp] theorem setI_stack (a : Word) : (s.setI a).stack = s.stack := rfl
@[simp] theorem setI_stackUnwritten (a : Word) : (s.setI a).stackUnwritten = s.stackUnwritten := rfl
@[simp] theorem setI_sp (a : Word) : (s.setI a).sp = s.sp := rfl
@[simp] theorem setI_mem (a : Word) : (s.setI a).mem = s.mem := rfl
@[simp] theorem setI_disp (a : Word) : (s.setI a).disp = s.disp := rfl
@[simp] theorem setI_dispUnwritten (a : Word) : (s.setI a).dispUnwritten = s.dispUnwritten := rfl
@[simp] theorem setI_dt (a : Word) : (s.setI a).dt = s.dt := rfl
@[simp] theorem setI_st (a : Word) : (s.setI a).st = s.st := rfl
@[simp] theorem setI_keys (a : Word) : (s.setI a).keys = s.keys := rfl
@[simp] theorem setI_mode (a : Word) : (s.setI a).mode = s.mode := rfl
@[simp] theorem setI_cyclesIssued (a : Word) : (s.setI a).cyclesIssued = s.cyclesIssued := rfl
@[simp] theorem setI_clocksIssued (a : Word) : (s.setI a).clocksIssued = s.clocksIssued := rfl
@[simp] theorem setI_start (a : Word) : (s.setI a).start = s.start := rfl
@[simp] theorem setI_fault (a : Word) : (s.setI a).fault = s.fault := rfl
@[simp] theorem setI_events (a : Word) : (s.setI a).events = s.events := rfl
@[simp] theorem setI_cfg (a : Word) : (s.setI a).cfg = s.cfg := rfl
@[simp] theorem setI_draws (a : Word) : (s.setI a).draws = s.draws := rfl
@[simp] theorem setI_inputs (a : Word) : (s.setI a).inputs = s.inputs := rfl
@[simp] theorem setI_passes (a : Word) : (s.setI a).passes = s.passes := rfl
@[simp] theorem setI_now (a : Word) : (s.setI a).now = s.now := rfl
@[simp] theorem setI_render (a : Word) : (s.setI a).render = s.render := rfl
@[simp] theorem setI_cycleOk (a : Word) : (s.setI a).cycleOk = s.cycleOk := rfl

/-! ### setPc -/

@[simp] theorem setPc_v (a : Word) : (s.setPc a).v = s.v := rfl
@[simp] theorem setPc_vUnwritten (a : Word) : (s.setPc a).vUnwritten = s.vUnwritten := rfl
@[simp] theorem setPc_i (a : Word) : (s.setPc a).i = s.i := rfl
@[simp] theorem setPc_iUnwritten (a : Word) : (s.setPc a).iUnwritten = s.iUnwritten := rfl
@[simp] theorem setPc_pc (a : Word) : (s.setPc a).pc = a := rfl
@[simp] theorem setPc_stack (a : Word) : (s.setPc a).stack = s.stack := rfl
@[simp] theorem setPc_stackUnwritten (a : Word) : (s.setPc a).stackUnwritten = s.stackUnwritten := rfl
@[simp] theorem setPc_sp (a : Word) : (s.setPc a).sp = s.sp := rfl
@[simp] theorem setPc_mem (a : Word) : (s.setPc a).mem = s.mem := rfl
@[simp] theorem setPc_disp (a : Word) : (s.setPc a).disp = s.disp := rfl
@[simp] theorem setPc_dispUnwritten (a : Word) : (s.setPc a).dispUnwritten = s.dispUnwritten := rfl
@[simp] theorem setPc_dt (a : Word) : (s.setPc a).dt = s.dt := rfl
@[simp] theorem setPc_st (a : Word) : (s.setPc a).st = s.st := rfl
@[simp] theorem setPc_keys (a : Word) : (s.setPc a).keys = s.keys := rfl
@[simp] theorem setPc_mode (a : Word) : (s.setPc a).mode = s.mode := rfl
@[simp] theorem setPc_cyclesIssued (a : Word) : (s.setPc a).cyclesIssued = s.cyclesIssued := rfl
@[simp] theorem setPc_clocksIssued (a : Word) : (s.setPc a).clocksIssued = s.clocksIssued := rfl
@[simp] theorem setPc_start (a : Word) : (s.setPc a).start = s.start := rfl
@[simp] theorem setPc_fault (a : Word) : (s.setPc a).fault = s.fault := rfl
@[simp] theorem setPc_events (a : Word) : (s.setPc a).events = s.events := rfl
@[simp] theorem setPc_cfg (a : Word) : (s.setPc a).cfg = s.cfg := rfl
@[simp] theorem setPc_draws (a : Word) : (s.setPc a).draws = s.draws := rfl
@[simp] theorem setPc_inputs (a : Word) : (s.setPc a).inputs = s.inputs := rfl
@[simp] theorem setPc_passes (a : Word) : (s.setPc a).passes = s.passes := rfl
@[simp] theorem setPc_now (a : Word) : (s.setPc a).now = s.now := rfl
@[simp] theorem setPc_render (a : Word) : (s.setPc a).render = s.render := rfl
@[simp] theorem setPc_cycleOk (a : Word) : (s.setPc a).cycleOk = s.cycleOk := rfl

/-! ### advance -/

@[simp] theorem advance_v : (s.advance).v = s.v := rfl
@[simp] theorem advance_vUnwritten : (s.advance).vUnwritten = s.vUnwritten := rfl
@[simp] theorem advance_i : (s.advance).i = s.i := rfl
@[simp] theorem advance_iUnwritten : (s.advance).iUnwritten = s.iUnwritten := rfl
@[simp] theorem advance_pc : (s.advance).pc = adv s.pc := rfl
@[simp] theorem advance_stack : (s.advance).stack = s.stack := rfl
@[simp] theorem advance_stackUnwritten : (s.advance).stackUnwritten = s.stackUnwritten := rfl
@[simp] theorem advance_sp : (s.advance).sp = s.sp := rfl
@[simp] theorem advance_mem : (s.advance).mem = s.mem := rfl
@[simp] theorem advance_disp : (s.advance).disp = s.disp := rfl
@[simp] theorem advance_dispUnwritten : (s.advance).dispUnwritten = s.dispUnwritten := rfl
@[simp] theorem advance_dt : (s.advance).dt = s.dt := rfl
@[simp] theorem advance_st : (s.advance).st = s.st := rfl
@[simp] theorem advance_keys : (s.advance).keys = s.keys := rfl
@[simp] theorem advance_mode : (s.advance).mode = s.mode := rfl
@[simp] theorem advance_cyclesIssued : (s.advance).cyclesIssued = s.cyclesIssued := rfl
@[simp] theorem advance_clocksIssued : (s.advance).clocksIssued = s.clocksIssued := rfl
@[simp] theorem advance_start : (s.advance).start = s.start := rfl
@[simp] theorem advance_fault : (s.advance).fault = s.fault := rfl
@[simp] theorem advance_events : (s.advance).events = s.events := rfl
@[simp] theorem advance_cfg : (s.advance).cfg = s.cfg := rfl
@[simp] theorem advance_draws : (s.advance).draws = s.draws := rfl
@[simp] theorem advance_inputs : (s.advance).inputs = s.inputs := rfl
@[simp] theorem advance_passes : (s.advance).passes = s.passes := rfl
@[simp] theorem advance_now : (s.advance).now = s.now := rfl
@[simp] theorem advance_render : (s.advance).render = s.render := rfl
@[simp] theorem advance_cycleOk : (s.advance).cycleOk = s.cycleOk := rfl

/-! ### push -/

@[simp] theorem push_v (a : Word) : (s.push a).v = s.v := rfl
@[simp] theorem push_vUnwritten (a : Word) : (s.push a).vUnwritten = s.vUnwritten := rfl
@[simp] theorem push_i (a : Word) : (s.push a).i = s.i := rfl
@[simp] theorem push_iUnwritten (a : Word) : (s.push a).iUnwritten = s.iUnwritten := rfl
@[simp] theorem push_pc (a : Word) : (s.push a).pc = s.pc := rfl
@[simp] theorem push_stack (a : Word) : (s.push a).stack = s.stack.set (s.sp + 1).val a := rfl
@[simp] theorem push_stackUnwritten (a : Word) : (s.push a).stackUnwritten = s.stackUnwritten.set (s.sp + 1).val false := rfl
@[simp] theorem push_sp (a : Word) : (s.push a).sp = s.sp + 1 := rfl
@[simp] theorem push_mem (a : Word) : (s.push a).mem = s.mem := rfl
@[simp] theorem push_disp (a : Word) : (s.push a).disp = s.disp := rfl
@[simp] theorem push_dispUnwritten (a : Word) : (s.push a).dispUnwritten = s.dispUnwritten := rfl
@[simp] theorem push_dt (a : Word) : (s.push a).dt = s.dt := rfl
@[simp] theorem push_st (a : Word) : (s.push a).st = s.st := rfl
@[simp] theorem push_keys (a : Word) : (s.push a).keys = s.keys := rfl
@[simp] theorem push_mode (a : Word) : (s.push a).mode = s.mode := rfl
@[simp] theorem push_cyclesIssued (a : Word) : (s.push a).cyclesIssued = s.cyclesIssued := rfl
@[simp] theorem push_clocksIssued (a : Word) : (s.push a).clocksIssued = s.clocksIssued := rfl
@[simp] theorem push_start (a : Word) : (s.push a).start = s.start := rfl
@[simp] theorem push_fault (a : Word) : (s.push a).fault = s.fault := rfl
@[simp] theorem push_events (a : Word) : (s.push a).events = s.events := rfl
@[simp] theorem push_cfg (a : Word) : (s.push a).cfg = s.cfg := rfl
@[simp] theorem push_draws (a : Word) : (s.push a).draws = s.draws := rfl
@[simp] theorem push_inputs (a : Word) : (s.push a).inputs = s.inputs := rfl
@[simp] theorem push_passes (a : Word) : (s.push a).passes = s.passes := rfl
@[simp] theorem push_now (a : Word) : (s.push a).now = s.now := rfl
@[simp] theorem push_render (a : Word) : (s.push a).render = s.render := rfl
@[simp] theorem push_cycleOk (a : Word) : (s.push a).cycleOk = s.cycleOk := rfl

/-! ### pop -/

@[simp] theorem pop_v : (s.pop).v = s.v := rfl
@[simp] theorem pop_vUnwritten : (s.pop).vUnwritten = s.vUnwritten := rfl
@[simp] theorem pop_i : (s.pop).i = s.i := rfl
@[simp] theorem pop_iUnwritten : (s.pop).iUnwritten = s.iUnwritten := rfl
@[simp] theorem pop_pc : (s.pop).pc = s.pc := rfl
@[simp] theorem pop_stack : (s.pop).stack = s.stack := rfl
@[simp] theorem pop_stackUnwritten : (s.pop).stackUnwritten = s.stackUnwritten := rfl
@[simp] theorem pop_sp : (s.pop).sp = s.sp - 1 := rfl
@[simp] theorem pop_mem : (s.pop).mem = s.mem := rfl
@[simp] theorem pop_disp : (s.pop).disp = s.disp := rfl
@[simp] theorem pop_dispUnwritten : (s.pop).dispUnwritten = s.dispUnwritten := rfl
@[simp] theorem pop_dt : (s.pop).dt = s.dt := rfl
@[simp] theorem pop_st : (s.pop).st = s.st := rfl
@[simp] theorem pop_keys : (s.pop).keys = s.keys := rfl
@[simp] theorem pop_mode : (s.pop).mode = s.mode := rfl
@[simp] theorem pop_cyclesIssued : (s.pop).cyclesIssued = s.cyclesIssued := rfl
@[simp] theorem pop_clocksIssued : (s.pop).clocksIssued = s.clocksIssued := rfl
@[simp] theorem pop_start : (s.pop).start = s.start := rfl
@[simp] theorem pop_fault : (s.pop).fault = s.fault := rfl
@[simp] theorem pop_events : (s.pop).events = s.events := rfl
@[simp] theorem pop_cfg : (s.pop).cfg = s.cfg := rfl
@[simp] theorem pop_draws : (s.pop).draws = s.draws := rfl
@[simp] theorem pop_inputs : (s.pop).inputs = s.inputs := rfl
@[simp] theorem pop_passes : (s.pop).passes = s.passes := rfl
@[simp] theorem pop_now : (s.pop).now = s.now := rfl
@[simp] theorem pop_render : (s.pop).render = s.render := rfl
@[simp] theorem pop_cycleOk : (s.pop).cycleOk = s.cycleOk := rfl

/-! ### writeMem -/

@[simp] theorem writeMem_v (a : Nat) (b : Byte) : (s.writeMem a b).v = s.v := rfl
@[simp] theorem writeMem_vUnwritten (a : Nat) (b : Byte) : (s.writeMem a b).vUnwritten = s.vUnwritten := rfl
@[simp] theorem writeMem_i (a : Nat) (b : Byte) : (s.writeMem a b).i = s.i := rfl
@[simp] theorem writeMem_iUnwritten (a : Nat) (b : Byte) : (s.writeMem a b).iUnwritten = s.iUnwritten := rfl
@[simp] theorem writeMem_pc (a : Nat) (b : Byte) : (s.writeMem a b).pc = s.pc := rfl
@[simp] theorem writeMem_stack (a : Nat) (b : Byte) : (s.writeMem a b).stack = s.stack := rfl
@[simp] theorem writeMem_stackUnwritten (a : Nat) (b : Byte) : (s.writeMem a b).stackUnwritten = s.stackUnwritten := rfl
@[simp] theorem writeMem_sp (a : Nat) (b : Byte) : (s.writeMem a b).sp = s.sp := rfl
@[simp] theorem writeMem_mem (a : Nat) (b : Byte) : (s.writeMem a b).mem = Memory.write s.cfg.font s.mem a b := rfl
@[simp] theorem writeMem_disp (a : Nat) (b : Byte) : (s.writeMem a b).disp = s.disp := rfl
@[simp] theorem writeMem_dispUnwritten (a : Nat) (b : Byte) : (s.writeMem a b).dispUnwritten = s.dispUnwritten := rfl
@[simp] theorem writeMem_dt (a : Nat) (b : Byte) : (s.writeMem a b).dt = s.dt := rfl
@[simp] theorem writeMem_st (a : Nat) (b : Byte) : (s.writeMem a b).st = s.st := rfl
@[simp] theorem writeMem_keys (a : Nat) (b : Byte) : (s.writeMem a b).keys = s.keys := rfl
@[simp] theorem writeMem_mode (a : Nat) (b : Byte) : (s.writeMem a b).mode = s.mode := rfl
@[simp] theorem writeMem_cyclesIssued (a : Nat) (b : Byte) : (s.writeMem a b).cyclesIssued = s.cyclesIssued := rfl
@[simp] theorem writeMem_clocksIssued (a : Nat) (b : Byte) : (s.writeMem a b).clocksIssued = s.clocksIssued := rfl
@[simp] theorem writeMem_start (a : Nat) (b : Byte) : (s.writeMem a b).start = s.start := rfl
@[simp] theorem writeMem_fault (a : Nat) (b : Byte) : (s.writeMem a b).fault = s.fault := rfl
@[simp] theorem writeMem_events (a : Nat) (b : Byte) : (s.writeMem a b).events = s.events := rfl
@[simp] theorem writeMem_cfg (a : Nat) (b : Byte) : (s.writeMem a b).cfg = s.cfg := rfl
@[simp] theorem writeMem_draws (a : Nat) (b : Byte) : (s.writeMem a b).draws = s.draws := rfl
@[simp] theorem writeMem_inputs (a : Nat) (b : Byte) : (s.writeMem a b).inputs = s.inputs := rfl
@[simp] theorem writeMem_passes (a : Nat) (b : Byte) : (s.writeMem a b).passes = s.passes := rfl
@[simp] theorem writeMem_now (a : Nat) (b : Byte) : (s.writeMem a b).now = s.now := rfl
@[simp] theorem writeMem_render (a : Nat) (b : Byte) : (s.writeMem a b).render = s.render := rfl
@[simp] theorem writeMem_cycleOk (a : Nat) (b : Byte) : (s.writeMem a b).cycleOk = s.cycleOk := rfl

/-! ### setVUpTo -/

@[simp] theorem setVUpTo_i (x : Reg) (f : Nat → Byte) : (s.setVUpTo x f).i = s.i := by unfold State.setVUpTo; rfl
@[simp] theorem setVUpTo_iUnwritten (x : Reg) (f : Nat → Byte) : (s.setVUpTo x f).iUnwritten = s.iUnwritten := by unfold State.setVUpTo; rfl
@[simp] theorem setVUpTo_pc (x : Reg) (f : Nat → Byte) : (s.setVUpTo x f).pc = s.pc := by unfold State.setVUpTo; rfl
@[simp] theorem setVUpTo_stack (x : Reg) (f : Nat → Byte) : (s.setVUpTo x f).stack = s.stack := by unfold State.setVUpTo; rfl
@[simp] theorem setVUpTo_stackUnwritten (x : Reg) (f : Nat → Byte) : (s.setVUpTo x f).stackUnwritten = s.stackUnwritten := by unfold State.setVUpTo; rfl
@[simp] theorem setVUpTo_sp (x : Reg) (f : Nat → Byte) : (s.setVUpTo x f).sp = s.sp := by unfold State.setVUpTo; rfl
@[simp] theorem setVUpTo_mem (x : Reg) (f : Nat → Byte) : (s.setVUpTo x f).mem = s.mem := by unfold State.setVUpTo; rfl
@[simp] theorem setVUpTo_disp (x : Reg) (f : Nat → Byte) : (s.setVUpTo x f).disp = s.disp := by unfold State.setVUpTo; rfl
@[simp] theorem setVUpTo_dispUnwritten (x : Reg) (f : Nat → Byte) : (s.setVUpTo x f).dispUnwritten = s.dispUnwritten := by unfold State.setVUpTo; rfl
@[simp] theorem setVUpTo_dt (x : Reg) (f : Nat → Byte) : (s.setVUpTo x f).dt = s.dt := by unfold State.setVUpTo; rfl
@[simp] theorem setVUpTo_st (x : Reg) (f : Nat → Byte) : (s.setVUpTo x f).st = s.st := by unfold State.setVUpTo; rfl
@[simp] theorem setVUpTo_keys (x : Reg) (f : Nat → Byte) : (s.setVUpTo x f).keys = s.keys := by unfold State.setVUpTo; rfl
@[simp] theorem setVUpTo_mode (x : Reg) (f : Nat → Byte) : (s.setVUpTo x f).mode = s.mode := by unfold State.setVUpTo; rfl
@[simp] theorem setVUpTo_cyclesIssued (x : Reg) (f : Nat → Byte) : (s.setVUpTo x f).cyclesIssued = s.cyclesIssued := by unfold State.setVUpTo; rfl
@[simp] theorem setVUpTo_clocksIssued (x : Reg) (f : Nat → Byte) : (s.setVUpTo x f).clocksIssued = s.clocksIssued := by unfold State.setVUpTo; rfl
@[simp] theorem setVUpTo_start (x : Reg) (f : Nat → Byte) : (s.setVUpTo x f).start = s.start := by unfold State.setVUpTo; rfl
@[simp] theorem setVUpTo_fault (x : Reg) (f : Nat → Byte) : (s.setVUpTo x f).fault = s.fault := by unfold State.setVUpTo; rfl
@[simp] theorem setVUpTo_events (x : Reg) (f : Nat → Byte) : (s.setVUpTo x f).events = s.events := by unfold State.setVUpTo; rfl
@[simp] theorem setVUpTo_cfg (x : Reg) (f : Nat → Byte) : (s.setVUpTo x f).cfg = s.cfg := by unfold State.setVUpTo; rfl
@[simp] theorem setVUpTo_draws (x : Reg) (f : Nat → Byte) : (s.setVUpTo x f).draws = s.draws := by unfold State.setVUpTo; rfl
@[simp] theorem setVUpTo_inputs (x : Reg) (f : Nat → Byte) : (s.setVUpTo x f).inputs = s.inputs := by unfold State.setVUpTo; rfl
@[simp] theorem setVUpTo_passes (x : Reg) (f : Nat → Byte) : (s.setVUpTo x f).passes = s.passes := by unfold State.setVUpTo; rfl
@[simp] theorem setVUpTo_now (x : Reg) (f : Nat → Byte) : (s.setVUpTo x f).now = s.now := by unfold State.setVUpTo; rfl
@[simp] theorem setVUpTo_render (x : Reg) (f : Nat → Byte) : (s.setVUpTo x f).render = s.render := by unfold State.setVUpTo; rfl
@[simp] theorem setVUpTo_cycleOk (x : Reg) (f : Nat → Byte) : (s.setVUpTo x f).cycleOk = s.cycleOk := by unfold State.setVUpTo; rfl

/-! ### clearDisp -/

@[simp] theorem clearDisp_v : (s.clearDisp).v = s.v := rfl
@[simp] theorem clearDisp_vUnwritten : (s.clearDisp).vUnwritten = s.vUnwritten := rfl
@[simp] theorem clearDisp_i : (s.clearDisp).i = s.i := rfl
@[simp] theorem clearDisp_iUnwritten : (s.clearDisp).iUnwritten = s.iUnwritten := rfl
@[simp] theorem clearDisp_pc : (s.clearDisp).pc = s.pc := rfl
@[simp] theorem clearDisp_stack : (s.clearDisp).stack = s.stack := rfl
@[simp] theorem clearDisp_stackUnwritten : (s.clearDisp).stackUnwritten = s.stackUnwritten := rfl
@[simp] theorem clearDisp_sp : (s.clearDisp).sp = s.sp := rfl
@[simp] theorem clearDisp_mem : (s.clearDisp).mem = s.mem := rfl
@[simp] theorem clearDisp_disp : (s.clearDisp).disp = Vector.replicate 32 0#64 := rfl
@[simp] theorem clearDisp_dispUnwritten : (s.clearDisp).dispUnwritten = Vector.replicate 32 0#64 := rfl
@[simp] theorem clearDisp_dt : (s.clearDisp).dt = s.dt := rfl
@[simp] theorem clearDisp_st : (s.clearDisp).st = s.st := rfl
@[simp] theorem clearDisp_keys : (s.clearDisp).keys = s.keys := rfl
@[simp] theorem clearDisp_mode : (s.clearDisp).mode = s.mode := rfl
@[simp] theorem clearDisp_cyclesIssued : (s.clearDisp).cyclesIssued = s.cyclesIssued := rfl
@[simp] theorem clearDisp_clocksIssued : (s.clearDisp).clocksIssued = s.clocksIssued := rfl
@[simp] theorem clearDisp_start : (s.clearDisp).start = s.start := rfl
@[simp] theorem clearDisp_fault : (s.clearDisp).fault = s.fault := rfl
@[simp] theorem clearDisp_events : (s.clearDisp).events = s.events := rfl
@[simp] theorem clearDisp_cfg : (s.clearDisp).cfg = s.cfg := rfl
@[simp] theorem clearDisp_draws : (s.clearDisp).draws = s.draws := rfl
@[simp] theorem clearDisp_inputs : (s.clearDisp).inputs = s.inputs := rfl
@[simp] theorem clearDisp_passes : (s.clearDisp).passes = s.passes := rfl
@[simp] theorem clearDisp_now : (s.clearDisp).now = s.now := rfl
@[simp] theorem clearDisp_render : (s.clearDisp).render = s.render := rfl
@[simp] theorem clearDisp_cycleOk : (s.clearDisp).cycleOk = s.cycleOk := rfl

/-! ### xorDisp -/

@[simp] theorem xorDisp_v (p : Vector (BitVec 64) 32) : (s.xorDisp p).v = s.v := by unfold State.xorDisp; rfl
@[simp] theorem xorDisp_vUnwritten (p : Vector (BitVec 64) 32) : (s.xorDisp p).vUnwritten = s.vUnwritten := by unfold State.xorDisp; rfl
@[simp] theorem xorDisp_i (p : Vector (BitVec 64) 32) : (s.xorDisp p).i = s.i := by unfold State.xorDisp; rfl
@[simp] theorem xorDisp_iUnwritten (p : Vector (BitVec 64) 32) : (s.xorDisp p).iUnwritten = s.iUnwritten := by unfold State.xorDisp; rfl
@[simp] theorem xorDisp_pc (p : Vector (BitVec 64) 32) : (s.xorDisp p).pc = s.pc := by unfold State.xorDisp; rfl
@[simp] theorem xorDisp_stack (p : Vector (BitVec 64) 32) : (s.xorDisp p).stack = s.stack := by unfold State.xorDisp; rfl
@[simp] theorem xorDisp_stackUnwritten (p : Vector (BitVec 64) 32) : (s.xorDisp p).stackUnwritten = s.stackUnwritten := by unfold State.xorDisp; rfl
@[simp] theorem xorDisp_sp (p : Vector (BitVec 64) 32) : (s.xorDisp p).sp = s.sp := by unfold State.xorDisp; rfl
@[simp] theorem xorDisp_mem (p : Vector (BitVec 64) 32) : (s.xorDisp p).mem = s.mem := by unfold State.xorDisp; rfl
@[simp] theorem xorDisp_dispUnwritten (p : Vector (BitVec 64) 32) : (s.xorDisp p).dispUnwritten = s.dispUnwritten := by unfold State.xorDisp; rfl
@[simp] theorem xorDisp_dt (p : Vector (BitVec 64) 32) : (s.xorDisp p).dt = s.dt := by unfold State.xorDisp; rfl
@[simp] theorem xorDisp_st (p : Vector (BitVec 64) 32) : (s.xorDisp p).st = s.st := by unfold State.xorDisp; rfl
@[simp] theorem xorDisp_keys (p : Vector (BitVec 64) 32) : (s.xorDisp p).keys = s.keys := by unfold State.xorDisp; rfl
@[simp] theorem xorDisp_mode (p : Vector (BitVec 64) 32) : (s.xorDisp p).mode = s.mode := by unfold State.xorDisp; rfl
@[simp] theorem xorDisp_cyclesIssued (p : Vector (BitVec 64) 32) : (s.xorDisp p).cyclesIssued = s.cyclesIssued := by unfold State.xorDisp; rfl
@[simp] theorem xorDisp_clocksIssued (p : Vector (BitVec 64) 32) : (s.xorDisp p).clocksIssued = s.clocksIssued := by unfold State.xorDisp; rfl
@[simp] theorem xorDisp_start (p : Vector (BitVec 64) 32) : (s.xorDisp p).start = s.start := by unfold State.xorDisp; rfl
@[simp] theorem xorDisp_fault (p : Vector (BitVec 64) 32) : (s.xorDisp p).fault = s.fault := by unfold State.xorDisp; rfl
@[simp] theorem xorDisp_events (p : Vector (BitVec 64) 32) : (s.xorDisp p).events = s.events := by unfold State.xorDisp; rfl
@[simp] theorem xorDisp_cfg (p : Vector (BitVec 64) 32) : (s.xorDisp p).cfg = s.cfg := by unfold State.xorDisp; rfl
@[simp] theorem xorDisp_draws (p : Vector (BitVec 64) 32) : (s.xorDisp p).draws = s.draws := by unfold State.xorDisp; rfl
@[simp] theorem xorDisp_inputs (p : Vector (BitVec 64) 32) : (s.xorDisp p).inputs = s.inputs := by unfold State.xorDisp; rfl
@[simp] theorem xorDisp_passes (p : Vector (BitVec 64) 32) : (s.xorDisp p).passes = s.passes := by unfold State.xorDisp; rfl
@[simp] theorem xorDisp_now (p : Vector (BitVec 64) 32) : (s.xorDisp p).now = s.now := by unfold State.xorDisp; rfl
@[simp] theorem xorDisp_render (p : Vector (BitVec 64) 32) : (s.xorDisp p).render = s.render := by unfold State.xorDisp; rfl
@[simp] theorem xorDisp_cycleOk (p : Vector (BitVec 64) 32) : (s.xorDisp p).cycleOk = s.cycleOk := by unfold State.xorDisp; rfl

/-! ### setDT -/

@[simp] theorem setDT_v (b : Byte) : (s.setDT b).v = s.v := rfl
@[simp] theorem setDT_vUnwritten (b : Byte) : (s.setDT b).vUnwritten = s.vUnwritten := rfl
@[simp] theorem setDT_i (b : Byte) : (s.setDT b).i = s.i := rfl
@[simp] theorem setDT_iUnwritten (b : Byte) : (s.setDT b).iUnwritten = s.iUnwritten := rfl
@[simp] theorem setDT_pc (b : Byte) : (s.setDT b).pc = s.pc := rfl
@[simp] theorem setDT_stack (b : Byte) : (s.setDT b).stack = s.stack := rfl
@[simp] theorem setDT_stackUnwritten (b : Byte) : (s.setDT b).stackUnwritten = s.stackUnwritten := rfl
@[simp] theorem setDT_sp (b : Byte) : (s.setDT b).sp = s.sp := rfl
@[simp] theorem setDT_mem (b : Byte) : (s.setDT b).mem = s.mem := rfl
@[simp] theorem setDT_disp (b : Byte) : (s.setDT b).disp = s.disp := rfl
@[simp] theorem setDT_dispUnwritten (b : Byte) : (s.setDT b).dispUnwritten = s.dispUnwritten := rfl
@[simp] theorem setDT_dt (b : Byte) : (s.setDT b).dt = b := rfl
@[simp] theorem setDT_st (b : Byte) : (s.setDT b).st = s.st := rfl
@[simp] theorem setDT_keys (b : Byte) : (s.setDT b).keys = s.keys := rfl
@[simp] theorem setDT_mode (b : Byte) : (s.setDT b).mode = s.mode := rfl
@[simp] theorem setDT_cyclesIssued (b : Byte) : (s.setDT b).cyclesIssued = s.cyclesIssued := rfl
@[simp] theorem setDT_clocksIssued (b : Byte) : (s.setDT b).clocksIssued = s.clocksIssued := rfl
@[simp] theorem setDT_start (b : Byte) : (s.setDT b).start = s.start := rfl
@[simp] theorem setDT_fault (b : Byte) : (s.setDT b).fault = s.fault := rfl
@[simp] theorem setDT_events (b : Byte) : (s.setDT b).events = s.events := rfl
@[simp] theorem setDT_cfg (b : Byte) : (s.setDT b).cfg = s.cfg := rfl
@[simp] theorem setDT_draws (b : Byte) : (s.setDT b).draws = s.draws := rfl
@[simp] theorem setDT_inputs (b : Byte) : (s.setDT b).inputs = s.inputs := rfl
@[simp] theorem setDT_passes (b : Byte) : (s.setDT b).passes = s.passes := rfl
@[simp] theorem setDT_now (b : Byte) : (s.setDT b).now = s.now := rfl
@[simp] theorem setDT_render (b : Byte) : (s.setDT b).render = s.render := rfl
@[simp] theorem setDT_cycleOk (b : Byte) : (s.setDT b).cycleOk = s.cycleOk := rfl

/-! ### setST -/

@[simp] theorem setST_v (b : Byte) : (s.setST b).v = s.v := rfl
@[simp] theorem setST_vUnwritten (b : Byte) : (s.setST b).vUnwritten = s.vUnwritten := rfl
@[simp] theorem setST_i (b : Byte) : (s.setST b).i = s.i := rfl
@[simp] theorem setST_iUnwritten (b : Byte) : (s.setST b).iUnwritten = s.iUnwritten := rfl
@[simp] theorem setST_pc (b : Byte) : (s.setST b).pc = s.pc := rfl
@[simp] theorem setST_stack (b : Byte) : (s.setST b).stack = s.stack := rfl
@[simp] theorem setST_stackUnwritten (b : Byte) : (s.setST b).stackUnwritten = s.stackUnwritten := rfl
@[simp] theorem setST_sp (b : Byte) : (s.setST b).sp = s.sp := rfl
@[simp] theorem setST_mem (b : Byte) : (s.setST b).mem = s.mem := rfl
@[simp] theorem setST_disp (b : Byte) : (s.setST b).disp = s.disp := rfl
@[simp] theorem setST_dispUnwritten (b : Byte) : (s.setST b).dispUnwritten = s.dispUnwritten := rfl
@[simp] theorem setST_dt (b : Byte) : (s.setST b).dt = s.dt := rfl
@[simp] theorem setST_st (b : Byte) : (s.setST b).st = b := rfl
@[simp] theorem setST_keys (b : Byte) : (s.setST b).keys = s.keys := rfl
@[simp] theorem setST_mode (b : Byte) : (s.setST b).mode = s.mode := rfl
@[simp] theorem setST_cyclesIssued (b : Byte) : (s.setST b).cyclesIssued = s.cyclesIssued := rfl
@[simp] theorem setST_clocksIssued (b : Byte) : (s.setST b).clocksIssued = s.clocksIssued := rfl
@[simp] theorem setST_start (b : Byte) : (s.setST b).start = s.start := rfl
@[simp] theorem setST_fault (b : Byte) : (s.setST b).fault = s.fault := rfl
@[simp] theorem setST_events (b : Byte) : (s.setST b).events = s.events := rfl
@[simp] theorem setST_cfg (b : Byte) : (s.setST b).cfg = s.cfg := rfl
@[simp] theorem setST_draws (b : Byte) : (s.setST b).draws = s.draws := rfl
@[simp] theorem setST_inputs (b : Byte) : (s.setST b).inputs = s.inputs := rfl
@[simp] theorem setST_passes (b : Byte) : (s.setST b).passes = s.passes := rfl
@[simp] theorem setST_now (b : Byte) : (s.setST b).now = s.now := rfl
@[simp] theorem setST_render (b : Byte) : (s.setST b).render = s.render := rfl
@[simp] theorem setST_cycleOk (b : Byte) : (s.setST b).cycleOk = s.cycleOk := rfl

/-! ### tick -/

@[simp] theorem tick_v : (s.tick).v = s.v := rfl
@[simp] theorem tick_vUnwritten : (s.tick).vUnwritten = s.vUnwritten := rfl
@[simp] theorem tick_i : (s.tick).i = s.i := rfl
@[simp] theorem tick_iUnwritten : (s.tick).iUnwritten = s.iUnwritten := rfl
@[simp] theorem tick_pc : (s.tick).pc = s.pc := rfl
@[simp] theorem tick_stack : (s.tick).stack = s.stack := rfl
@[simp] theorem tick_stackUnwritten : (s.tick).stackUnwritten = s.stackUnwritten := rfl
@[simp] theorem tick_sp : (s.tick).sp = s.sp := rfl
@[simp] theorem tick_mem : (s.tick).mem = s.mem := rfl
@[simp] theorem tick_disp : (s.tick).disp = s.disp := rfl
@[simp] theorem tick_dispUnwritten : (s.tick).dispUnwritten = s.dispUnwritten := rfl
@[simp] theorem tick_dt : (s.tick).dt = countDown s.dt := rfl
@[simp] theorem tick_st : (s.tick).st = countDown s.st := rfl
@[simp] theorem tick_keys : (s.tick).keys = s.keys := rfl
@[simp] theorem tick_mode : (s.tick).mode = s.mode := rfl
@[simp] theorem tick_cyclesIssued : (s.tick).cyclesIssued = s.cyclesIssued := rfl
@[simp] theorem tick_clocksIssued : (s.tick).clocksIssued = s.clocksIssued := rfl
@[simp] theorem tick_start : (s.tick).start = s.start := rfl
@[simp] theorem tick_fault : (s.tick).fault = s.fault := rfl
@[simp] theorem tick_events : (s.tick).events = s.events := rfl
@[simp] theorem tick_cfg : (s.tick).cfg = s.cfg := rfl
@[simp] theorem tick_draws : (s.tick).draws = s.draws := rfl
@[simp] theorem tick_inputs : (s.tick).inputs = s.inputs := rfl
@[simp] theorem tick_passes : (s.tick).passes = s.passes := rfl
@[simp] theorem tick_now : (s.tick).now = s.now := rfl
@[simp] theorem tick_render : (s.tick).render = s.render := rfl
@[simp] theorem tick_cycleOk : (s.tick).cycleOk = s.cycleOk := rfl

/-! ### countDraw -/

@[simp] theorem countDraw_v : (s.countDraw).v = s.v := rfl
@[simp] theorem countDraw_vUnwritten : (s.countDraw).vUnwritten = s.vUnwritten := rfl
@[simp] theorem countDraw_i : (s.countDraw).i = s.i := rfl
@[simp] theorem countDraw_iUnwritten : (s.countDraw).iUnwritten = s.iUnwritten := rfl
@[simp] theorem countDraw_pc : (s.countDraw).pc = s.pc := rfl
@[simp] theorem countDraw_stack : (s.countDraw).stack = s.stack := rfl
@[simp] theorem countDraw_stackUnwritten : (s.countDraw).stackUnwritten = s.stackUnwritten := rfl
@[simp] theorem countDraw_sp : (s.countDraw).sp = s.sp := rfl
@[simp] theorem countDraw_mem : (s.countDraw).mem = s.mem := rfl
@[simp] theorem countDraw_disp : (s.countDraw).disp = s.disp := rfl
@[simp] theorem countDraw_dispUnwritten : (s.countDraw).dispUnwritten = s.dispUnwritten := rfl
@[simp] theorem countDraw_dt : (s.countDraw).dt = s.dt := rfl
@[simp] theorem countDraw_st : (s.countDraw).st = s.st := rfl
@[simp] theorem countDraw_keys : (s.countDraw).keys = s.keys := rfl
@[simp] theorem countDraw_mode : (s.countDraw).mode = s.mode := rfl
@[simp] theorem countDraw_cyclesIssued : (s.countDraw).cyclesIssued = s.cyclesIssued := rfl
@[simp] theorem countDraw_clocksIssued : (s.countDraw).clocksIssued = s.clocksIssued := rfl
@[simp] theorem countDraw_start : (s.countDraw).start = s.start := rfl
@[simp] theorem countDraw_fault : (s.countDraw).fault = s.fault := rfl
@[simp] theorem countDraw_events : (s.countDraw).events = s.events := rfl
@[simp] theorem countDraw_cfg : (s.countDraw).cfg = s.cfg := rfl
@[simp] theorem countDraw_draws : (s.countDraw).draws = s.draws + 1 := rfl
@[simp] theorem countDraw_inputs : (s.countDraw).inputs = s.inputs := rfl
@[simp] theorem countDraw_passes : (s.countDraw).passes = s.passes := rfl
@[simp] theorem countDraw_now : (s.countDraw).now = s.now := rfl
@[simp] theorem countDraw_render : (s.countDraw).render = s.render := rfl
@[simp] theorem countDraw_cycleOk : (s.countDraw).cycleOk = s.cycleOk := rfl

/-! ### raise -/

@[simp] theorem raise_v (c : Cause) : (s.raise c).v = s.v := rfl
@[simp] theorem raise_vUnwritten (c : Cause) : (s.raise c).vUnwritten = s.vUnwritten := rfl
@[simp] theorem raise_i (c : Cause) : (s.raise c).i = s.i := rfl
@[simp] theorem raise_iUnwritten (c : Cause) : (s.raise c).iUnwritten = s.iUnwritten := rfl
@[simp] theorem raise_pc (c : Cause) : (s.raise c).pc = s.pc := rfl
@[simp] theorem raise_stack (c : Cause) : (s.raise c).stack = s.stack := rfl
@[simp] theorem raise_stackUnwritten (c : Cause) : (s.raise c).stackUnwritten = s.stackUnwritten := rfl
@[simp] theorem raise_sp (c : Cause) : (s.raise c).sp = s.sp := rfl
@[simp] theorem raise_mem (c : Cause) : (s.raise c).mem = s.mem := rfl
@[simp] theorem raise_disp (c : Cause) : (s.raise c).disp = s.disp := rfl
@[simp] theorem raise_dispUnwritten (c : Cause) : (s.raise c).dispUnwritten = s.dispUnwritten := rfl
@[simp] theorem raise_dt (c : Cause) : (s.raise c).dt = s.dt := rfl
@[simp] theorem raise_st (c : Cause) : (s.raise c).st = s.st := rfl
@[simp] theorem raise_keys (c : Cause) : (s.raise c).keys = s.keys := rfl
@[simp] theorem raise_mode (c : Cause) : (s.raise c).mode = s.mode := rfl
@[simp] theorem raise_cyclesIssued (c : Cause) : (s.raise c).cyclesIssued = s.cyclesIssued := rfl
@[simp] theorem raise_clocksIssued (c : Cause) : (s.raise c).clocksIssued = s.clocksIssued := rfl
@[simp] theorem raise_start (c : Cause) : (s.raise c).start = s.start := rfl
@[simp] theorem raise_fault (c : Cause) : (s.raise c).fault = some { cause := c, pcF := s.pc, word := s.fetchWord? } := rfl
@[simp] theorem raise_events (c : Cause) : (s.raise c).events = s.events := rfl
@[simp] theorem raise_cfg (c : Cause) : (s.raise c).cfg = s.cfg := rfl
@[simp] theorem raise_draws (c : Cause) : (s.raise c).draws = s.draws := rfl
@[simp] theorem raise_inputs (c : Cause) : (s.raise c).inputs = s.inputs := rfl
@[simp] theorem raise_passes (c : Cause) : (s.raise c).passes = s.passes := rfl
@[simp] theorem raise_now (c : Cause) : (s.raise c).now = s.now := rfl
@[simp] theorem raise_render (c : Cause) : (s.raise c).render = s.render := rfl
@[simp] theorem raise_cycleOk (c : Cause) : (s.raise c).cycleOk = s.cycleOk := rfl

/-! ### logUndefined -/

@[simp] theorem logUndefined_v (f w : Word) : (s.logUndefined f w).v = s.v := rfl
@[simp] theorem logUndefined_vUnwritten (f w : Word) : (s.logUndefined f w).vUnwritten = s.vUnwritten := rfl
@[simp] theorem logUndefined_i (f w : Word) : (s.logUndefined f w).i = s.i := rfl
@[simp] theorem logUndefined_iUnwritten (f w : Word) : (s.logUndefined f w).iUnwritten = s.iUnwritten := rfl
@[simp] theorem logUndefined_pc (f w : Word) : (s.logUndefined f w).pc = s.pc := rfl
@[simp] theorem logUndefined_stack (f w : Word) : (s.logUndefined f w).stack = s.stack := rfl
@[simp] theorem logUndefined_stackUnwritten (f w : Word) : (s.logUndefined f w).stackUnwritten = s.stackUnwritten := rfl
@[simp] theorem logUndefined_sp (f w : Word) : (s.logUndefined f w).sp = s.sp := rfl
@[simp] theorem logUndefined_mem (f w : Word) : (s.logUndefined f w).mem = s.mem := rfl
@[simp] theorem logUndefined_disp (f w : Word) : (s.logUndefined f w).disp = s.disp := rfl
@[simp] theorem logUndefined_dispUnwritten (f w : Word) : (s.logUndefined f w).dispUnwritten = s.dispUnwritten := rfl
@[simp] theorem logUndefined_dt (f w : Word) : (s.logUndefined f w).dt = s.dt := rfl
@[simp] theorem logUndefined_st (f w : Word) : (s.logUndefined f w).st = s.st := rfl
@[simp] theorem logUndefined_keys (f w : Word) : (s.logUndefined f w).keys = s.keys := rfl
@[simp] theorem logUndefined_mode (f w : Word) : (s.logUndefined f w).mode = s.mode := rfl
@[simp] theorem logUndefined_cyclesIssued (f w : Word) : (s.logUndefined f w).cyclesIssued = s.cyclesIssued := rfl
@[simp] theorem logUndefined_clocksIssued (f w : Word) : (s.logUndefined f w).clocksIssued = s.clocksIssued := rfl
@[simp] theorem logUndefined_start (f w : Word) : (s.logUndefined f w).start = s.start := rfl
@[simp] theorem logUndefined_fault (f w : Word) : (s.logUndefined f w).fault = s.fault := rfl
@[simp] theorem logUndefined_events (f w : Word) : (s.logUndefined f w).events = s.events ++ [.undefinedOpcode f w] := rfl
@[simp] theorem logUndefined_cfg (f w : Word) : (s.logUndefined f w).cfg = s.cfg := rfl
@[simp] theorem logUndefined_draws (f w : Word) : (s.logUndefined f w).draws = s.draws := rfl
@[simp] theorem logUndefined_inputs (f w : Word) : (s.logUndefined f w).inputs = s.inputs := rfl
@[simp] theorem logUndefined_passes (f w : Word) : (s.logUndefined f w).passes = s.passes := rfl
@[simp] theorem logUndefined_now (f w : Word) : (s.logUndefined f w).now = s.now := rfl
@[simp] theorem logUndefined_render (f w : Word) : (s.logUndefined f w).render = s.render := rfl
@[simp] theorem logUndefined_cycleOk (f w : Word) : (s.logUndefined f w).cycleOk = s.cycleOk := rfl

/-! ### signal -/

@[simp] theorem signal_v (r : CycleResult) : (s.signal r).v = s.v := rfl
@[simp] theorem signal_vUnwritten (r : CycleResult) : (s.signal r).vUnwritten = s.vUnwritten := rfl
@[simp] theorem signal_i (r : CycleResult) : (s.signal r).i = s.i := rfl
@[simp] theorem signal_iUnwritten (r : CycleResult) : (s.signal r).iUnwritten = s.iUnwritten := rfl
@[simp] theorem signal_pc (r : CycleResult) : (s.signal r).pc = s.pc := rfl
@[simp] theorem signal_stack (r : CycleResult) : (s.signal r).stack = s.stack := rfl
@[simp] theorem signal_stackUnwritten (r : CycleResult) : (s.signal r).stackUnwritten = s.stackUnwritten := rfl
@[simp] theorem signal_sp (r : CycleResult) : (s.signal r).sp = s.sp := rfl
@[simp] theorem signal_mem (r : CycleResult) : (s.signal r).mem = s.mem := rfl
@[simp] theorem signal_disp (r : CycleResult) : (s.signal r).disp = s.disp := rfl
@[simp] theorem signal_dispUnwritten (r : CycleResult) : (s.signal r).dispUnwritten = s.dispUnwritten := rfl
@[simp] theorem signal_dt (r : CycleResult) : (s.signal r).dt = s.dt := rfl
@[simp] theorem signal_st (r : CycleResult) : (s.signal r).st = s.st := rfl
@[simp] theorem signal_keys (r : CycleResult) : (s.signal r).keys = s.keys := rfl
@[simp] theorem signal_mode (r : CycleResult) : (s.signal r).mode = s.mode := rfl
@[simp] theorem signal_cyclesIssued (r : CycleResult) : (s.signal r).cyclesIssued = s.cyclesIssued := rfl
@[simp] theorem signal_clocksIssued (r : CycleResult) : (s.signal r).clocksIssued = s.clocksIssued := rfl
@[simp] theorem signal_start (r : CycleResult) : (s.signal r).start = s.start := rfl
@[simp] theorem signal_fault (r : CycleResult) : (s.signal r).fault = s.fault := rfl
@[simp] theorem signal_events (r : CycleResult) : (s.signal r).events = s.events := rfl
@[simp] theorem signal_cfg (r : CycleResult) : (s.signal r).cfg = s.cfg := rfl
@[simp] theorem signal_draws (r : CycleResult) : (s.signal r).draws = s.draws := rfl
@[simp] theorem signal_inputs (r : CycleResult) : (s.signal r).inputs = s.inputs := rfl
@[simp] theorem signal_passes (r : CycleResult) : (s.signal r).passes = s.passes := rfl
@[simp] theorem signal_now (r : CycleResult) : (s.signal r).now = s.now := rfl
@[simp] theorem signal_render (r : CycleResult) : (s.signal r).render = s.render := rfl
@[simp] theorem signal_cycleOk (r : CycleResult) : (s.signal r).cycleOk = some r := rfl

/-! ### sample -/

@[simp] theorem sample_v (p : PassInput) : (s.sample p).v = s.v := rfl
@[simp] theorem sample_vUnwritten (p : PassInput) : (s.sample p).vUnwritten = s.vUnwritten := rfl
@[simp] theorem sample_i (p : PassInput) : (s.sample p).i = s.i := rfl
@[simp] theorem sample_iUnwritten (p : PassInput) : (s.sample p).iUnwritten = s.iUnwritten := rfl
@[simp] theorem sample_pc (p : PassInput) : (s.sample p).pc = s.pc := rfl
@[simp] theorem sample_stack (p : PassInput) : (s.sample p).stack = s.stack := rfl
@[simp] theorem sample_stackUnwritten (p : PassInput) : (s.sample p).stackUnwritten = s.stackUnwritten := rfl
@[simp] theorem sample_sp (p : PassInput) : (s.sample p).sp = s.sp := rfl
@[simp] theorem sample_mem (p : PassInput) : (s.sample p).mem = s.mem := rfl
@[simp] theorem sample_disp (p : PassInput) : (s.sample p).disp = s.disp := rfl
@[simp] theorem sample_dispUnwritten (p : PassInput) : (s.sample p).dispUnwritten = s.dispUnwritten := rfl
@[simp] theorem sample_dt (p : PassInput) : (s.sample p).dt = s.dt := rfl
@[simp] theorem sample_st (p : PassInput) : (s.sample p).st = s.st := rfl
@[simp] theorem sample_keys (p : PassInput) : (s.sample p).keys = p.keysIn := rfl
@[simp] theorem sample_mode (p : PassInput) : (s.sample p).mode = s.mode := rfl
@[simp] theorem sample_cyclesIssued (p : PassInput) : (s.sample p).cyclesIssued = s.cyclesIssued := rfl
@[simp] theorem sample_clocksIssued (p : PassInput) : (s.sample p).clocksIssued = s.clocksIssued := rfl
@[simp] theorem sample_start (p : PassInput) : (s.sample p).start = s.start := rfl
@[simp] theorem sample_fault (p : PassInput) : (s.sample p).fault = s.fault := rfl
@[simp] theorem sample_events (p : PassInput) : (s.sample p).events = s.events := rfl
@[simp] theorem sample_cfg (p : PassInput) : (s.sample p).cfg = s.cfg := rfl
@[simp] theorem sample_draws (p : PassInput) : (s.sample p).draws = s.draws := rfl
@[simp] theorem sample_inputs (p : PassInput) : (s.sample p).inputs = s.inputs := rfl
@[simp] theorem sample_passes (p : PassInput) : (s.sample p).passes = s.passes := rfl
@[simp] theorem sample_now (p : PassInput) : (s.sample p).now = laterTime s.now p.now := rfl
@[simp] theorem sample_render (p : PassInput) : (s.sample p).render = false := rfl
@[simp] theorem sample_cycleOk (p : PassInput) : (s.sample p).cycleOk = none := rfl

/-! ### countCycle -/

@[simp] theorem countCycle_v : (s.countCycle).v = s.v := rfl
@[simp] theorem countCycle_vUnwritten : (s.countCycle).vUnwritten = s.vUnwritten := rfl
@[simp] theorem countCycle_i : (s.countCycle).i = s.i := rfl
@[simp] theorem countCycle_iUnwritten : (s.countCycle).iUnwritten = s.iUnwritten := rfl
@[simp] theorem countCycle_pc : (s.countCycle).pc = s.pc := rfl
@[simp] theorem countCycle_stack : (s.countCycle).stack = s.stack := rfl
@[simp] theorem countCycle_stackUnwritten : (s.countCycle).stackUnwritten = s.stackUnwritten := rfl
@[simp] theorem countCycle_sp : (s.countCycle).sp = s.sp := rfl
@[simp] theorem countCycle_mem : (s.countCycle).mem = s.mem := rfl
@[simp] theorem countCycle_disp : (s.countCycle).disp = s.disp := rfl
@[simp] theorem countCycle_dispUnwritten : (s.countCycle).dispUnwritten = s.dispUnwritten := rfl
@[simp] theorem countCycle_dt : (s.countCycle).dt = s.dt := rfl
@[simp] theorem countCycle_st : (s.countCycle).st = s.st := rfl
@[simp] theorem countCycle_keys : (s.countCycle).keys = s.keys := rfl
@[simp] theorem countCycle_mode : (s.countCycle).mode = s.mode := rfl
@[simp] theorem countCycle_cyclesIssued : (s.countCycle).cyclesIssued = s.cyclesIssued + 1 := rfl
@[simp] theorem countCycle_clocksIssued : (s.countCycle).clocksIssued = s.clocksIssued := rfl
@[simp] theorem countCycle_start : (s.countCycle).start = s.start := rfl
@[simp] theorem countCycle_fault : (s.countCycle).fault = s.fault := rfl
@[simp] theorem countCycle_events : (s.countCycle).events = s.events := rfl
@[simp] theorem countCycle_cfg : (s.countCycle).cfg = s.cfg := rfl
@[simp] theorem countCycle_draws : (s.countCycle).draws = s.draws := rfl
@[simp] theorem countCycle_inputs : (s.countCycle).inputs = s.inputs := rfl
@[simp] theorem countCycle_passes : (s.countCycle).passes = s.passes := rfl
@[simp] theorem countCycle_now : (s.countCycle).now = s.now := rfl
@[simp] theorem countCycle_render : (s.countCycle).render = s.render := rfl
@[simp] theorem countCycle_cycleOk : (s.countCycle).cycleOk = s.cycleOk := rfl

/-! ### popInput -/

@[simp] theorem popInput_v : (s.popInput).v = s.v := rfl
@[simp] theorem popInput_vUnwritten : (s.popInput).vUnwritten = s.vUnwritten := rfl
@[simp] theorem popInput_i : (s.popInput).i = s.i := rfl
@[simp] theorem popInput_iUnwritten : (s.popInput).iUnwritten = s.iUnwritten := rfl
@[simp] theorem popInput_pc : (s.popInput).pc = s.pc := rfl
@[simp] theorem popInput_stack : (s.popInput).stack = s.stack := rfl
@[simp] theorem popInput_stackUnwritten : (s.popInput).stackUnwritten = s.stackUnwritten := rfl
@[simp] theorem popInput_sp : (s.popInput).sp = s.sp := rfl
@[simp] theorem popInput_mem : (s.popInput).mem = s.mem := rfl
@[simp] theorem popInput_disp : (s.popInput).disp = s.disp := rfl
@[simp] theorem popInput_dispUnwritten : (s.popInput).dispUnwritten = s.dispUnwritten := rfl
@[simp] theorem popInput_dt : (s.popInput).dt = s.dt := rfl
@[simp] theorem popInput_st : (s.popInput).st = s.st := rfl
@[simp] theorem popInput_keys : (s.popInput).keys = s.keys := rfl
@[simp] theorem popInput_mode : (s.popInput).mode = s.mode := rfl
@[simp] theorem popInput_cyclesIssued : (s.popInput).cyclesIssued = s.cyclesIssued := rfl
@[simp] theorem popInput_clocksIssued : (s.popInput).clocksIssued = s.clocksIssued := rfl
@[simp] theorem popInput_start : (s.popInput).start = s.start := rfl
@[simp] theorem popInput_fault : (s.popInput).fault = s.fault := rfl
@[simp] theorem popInput_events : (s.popInput).events = s.events := rfl
@[simp] theorem popInput_cfg : (s.popInput).cfg = s.cfg := rfl
@[simp] theorem popInput_draws : (s.popInput).draws = s.draws := rfl
@[simp] theorem popInput_inputs : (s.popInput).inputs = s.inputs.tail := rfl
@[simp] theorem popInput_passes : (s.popInput).passes = s.passes + 1 := rfl
@[simp] theorem popInput_now : (s.popInput).now = s.now := rfl
@[simp] theorem popInput_render : (s.popInput).render = s.render := rfl
@[simp] theorem popInput_cycleOk : (s.popInput).cycleOk = s.cycleOk := rfl

end Sys2Proof.Machine.State
end

