-- ==== Sys2Proof/Laws/Memory.lean ====
section
/-! SUPPORT. Memory: a read after a write gives the value written, a write leaves every other address alone, and every
memory operation keeps the canonical form. -/

namespace Sys2Proof.Machine

variable {font : Font} {m : List Host.Cell} {a b : Nat} {v : Byte}

/-! ### Reading -/

theorem Memory.read_insert_same : Memory.read font (Memory.insert a v m) a = v := by
  induction m with
  | nil => simp [Memory.insert, Memory.read]
  | cons c rest ih =>
    obtain ⟨b, w⟩ := c
    simp only [Memory.insert]
    split
    · simp [Memory.read]
    · split
      · simp [Memory.read]
      · rename_i h
        simp [Memory.read, ih, Ne.symm h]

theorem Memory.read_insert_other (h : b ≠ a) :
    Memory.read font (Memory.insert a v m) b = Memory.read font m b := by
  induction m with
  | nil => simp [Memory.insert, Memory.read, Ne.symm h]
  | cons c rest ih =>
    obtain ⟨d, w⟩ := c
    simp only [Memory.insert]
    split
    · simp [Memory.read, Ne.symm h]
    · split
      · rename_i hd
        subst hd
        simp [Memory.read, Ne.symm h]
      · simp only [Memory.read, ih]

theorem Memory.read_erase_same : Memory.read font (Memory.erase a m) a = Memory.unlisted font a := by
  induction m with
  | nil => rfl
  | cons c rest ih =>
    obtain ⟨d, w⟩ := c
    by_cases hd : d = a
    · simpa [Memory.erase, hd] using ih
    · simpa [Memory.erase, hd, Memory.read] using ih

theorem Memory.read_erase_other (h : b ≠ a) :
    Memory.read font (Memory.erase a m) b = Memory.read font m b := by
  induction m with
  | nil => rfl
  | cons c rest ih =>
    obtain ⟨d, w⟩ := c
    by_cases hd : d = a
    · subst hd
      simpa [Memory.erase, Memory.read, Ne.symm h] using ih
    · have e : Memory.erase a ((d, w) :: rest) = (d, w) :: Memory.erase a rest := by simp [Memory.erase, hd]
      rw [e]
      simp only [Memory.read, ih]

theorem Memory.read_write_same : Memory.read font (Memory.write font m a v) a = v := by
  unfold Memory.write
  split
  · rw [Memory.read_erase_same]; exact Eq.symm ‹_›
  · exact Memory.read_insert_same

theorem Memory.read_write_other (h : b ≠ a) :
    Memory.read font (Memory.write font m a v) b = Memory.read font m b := by
  unfold Memory.write
  split
  · exact Memory.read_erase_other h
  · exact Memory.read_insert_other h

/-! ### The canonical form -/

theorem Memory.rising_tail {c : Host.Cell} (h : Memory.rising (c :: m) = true) : Memory.rising m = true := by
  cases m with
  | nil => rfl
  | cons d rest => simp only [Memory.rising, Bool.and_eq_true] at h; exact h.2

/-- In a rising list every address is above the first one. -/
theorem Memory.rising_lt {c : Host.Cell} (h : Memory.rising (c :: m) = true) : ∀ d ∈ m, c.1 < d.1 := by
  induction m generalizing c with
  | nil => simp
  | cons e rest ih =>
    simp only [Memory.rising, Bool.and_eq_true, decide_eq_true_eq] at h
    intro d hd
    rcases List.mem_cons.1 hd with rfl | hd
    · exact h.1
    · exact lt_trans h.1 (ih h.2 d hd)

theorem Memory.rising_cons {c : Host.Cell} (hm : Memory.rising m = true) (h : ∀ d ∈ m, c.1 < d.1) :
    Memory.rising (c :: m) = true := by
  cases m with
  | nil => rfl
  | cons e rest => simp [Memory.rising, h e (by simp), hm]

theorem Memory.mem_insert {c : Host.Cell} (h : c ∈ Memory.insert a v m) : c = (a, v) ∨ c ∈ m := by
  induction m with
  | nil => simpa [Memory.insert] using h
  | cons d rest ih =>
    simp only [Memory.insert] at h
    split at h
    · simpa using h
    · split at h
      · rcases List.mem_cons.1 h with h | h
        · exact .inl h
        · exact .inr (List.mem_cons_of_mem _ h)
      · rcases List.mem_cons.1 h with h | h
        · exact .inr (h ▸ List.mem_cons_self)
        · exact (ih h).imp_right (List.mem_cons_of_mem _)

theorem Memory.rising_insert (h : Memory.rising m = true) : Memory.rising (Memory.insert a v m) = true := by
  induction m with
  | nil => rfl
  | cons c rest ih =>
    obtain ⟨d, w⟩ := c
    have hr := Memory.rising_tail h
    have hlt := Memory.rising_lt h
    simp only [Memory.insert]
    split
    · rename_i had
      refine Memory.rising_cons h fun e he => ?_
      rcases List.mem_cons.1 he with rfl | he
      · exact had
      · exact lt_trans had (hlt e he)
    · split
      · rename_i had
        exact Memory.rising_cons hr fun e he => had ▸ hlt e he
      · refine Memory.rising_cons (ih hr) fun e he => ?_
        rcases Memory.mem_insert he with rfl | he
        · simp only; omega
        · exact hlt e he

theorem Memory.rising_erase (h : Memory.rising m = true) : Memory.rising (Memory.erase a m) = true := by
  induction m with
  | nil => rfl
  | cons c rest ih =>
    have hr := ih (Memory.rising_tail h)
    by_cases hc : c.1 = a
    · simpa [Memory.erase, hc] using hr
    · have : Memory.erase a (c :: rest) = c :: Memory.erase a rest := by simp [Memory.erase, hc]
      rw [this]
      exact Memory.rising_cons hr fun d hd => Memory.rising_lt h d (List.mem_filter.1 hd).1

theorem Memory.wf_iff : Memory.wf font m = true ↔
    Memory.rising m = true ∧ ∀ c ∈ m, c.1 < memSize ∧ c.2 ≠ Memory.unlisted font c.1 := by
  simp [Memory.wf]

@[simp] theorem Memory.wf_nil : Memory.wf font [] = true := rfl

/-- Storing an in-range byte keeps the canonical form. -/
theorem Memory.wf_write (h : Memory.wf font m = true) (ha : a < memSize) :
    Memory.wf font (Memory.write font m a v) = true := by
  rw [Memory.wf_iff] at h ⊢
  unfold Memory.write
  split
  · exact ⟨Memory.rising_erase h.1, fun c hc => h.2 c (List.mem_filter.1 hc).1⟩
  · refine ⟨Memory.rising_insert h.1, fun c hc => ?_⟩
    rcases Memory.mem_insert hc with rfl | hc
    · exact ⟨ha, ‹_›⟩
    · exact h.2 c hc

/-! ### The state's memory -/

variable (s : State)

/-- Two states with the same memory data and font read the same bytes. -/
theorem State.readMem_congr {s t : State} (hm : t.mem = s.mem) (hc : t.cfg = s.cfg) (a : Nat) :
    t.readMem a = s.readMem a := by simp [State.readMem, hm, hc]

@[simp] theorem State.readMem_writeMem (a : Nat) (v : Byte) (b : Nat) :
    (s.writeMem a v).readMem b = if b = a then v else s.readMem b := by
  unfold State.readMem State.writeMem
  split
  · subst_vars; exact Memory.read_write_same
  · exact Memory.read_write_other ‹_›

/-- After storing bytes from `a` on, an address of them reads as its byte and every other one as before. -/
theorem State.readMem_writeBytes (bs : List Byte) (a b : Nat) :
    (s.writeBytes a bs).readMem b = if h : a ≤ b ∧ b - a < bs.length then bs[b - a]'h.2 else s.readMem b := by
  induction bs generalizing s a with
  | nil => simp [State.writeBytes]
  | cons v bs ih =>
    simp only [State.writeBytes, ih, State.readMem_writeMem]
    rcases Nat.lt_trichotomy b a with h | h | h
    · rw [dif_neg (by omega), dif_neg (by simp; omega), if_neg (by omega)]
    · subst h
      rw [dif_neg (by omega), dif_pos (by simp)]
      simp
    · by_cases hb : b - (a + 1) < bs.length
      · have e : b - a = (b - (a + 1)) + 1 := by omega
        rw [dif_pos ⟨by omega, hb⟩, dif_pos ⟨by omega, by simp; omega⟩]
        simp only [e, List.getElem_cons_succ]
      · rw [dif_neg (by omega), dif_neg (by simp; omega), if_neg (by omega)]

theorem State.readMem_writeBytes_outside {bs : List Byte} {a b : Nat} (h : b < a ∨ a + bs.length ≤ b) :
    (s.writeBytes a bs).readMem b = s.readMem b := by
  rw [State.readMem_writeBytes, dif_neg (by omega)]

/-- Storing in-range bytes keeps the canonical form. -/
theorem State.wf_writeBytes {bs : List Byte} {a : Nat} (h : Memory.wf s.cfg.font s.mem = true)
    (ha : a + bs.length ≤ memSize) :
    Memory.wf (s.writeBytes a bs).cfg.font (s.writeBytes a bs).mem = true := by
  induction bs generalizing s a with
  | nil => exact h
  | cons v bs ih =>
    simp only [List.length_cons] at ha
    exact ih (s.writeMem a v) (Memory.wf_write h (by omega)) (by omega)

/-! ### The range check -/

/-- The check passes exactly when every byte is in range. -/
theorem firstBad_eq_none {base n : Nat} : firstBad base n = none ↔ n = 0 ∨ base + n ≤ memSize := by
  simp only [firstBad, List.find?_eq_none, List.mem_map, List.mem_range, decide_eq_true_eq, not_le,
    forall_exists_index, and_imp]
  constructor
  · intro h
    rcases Nat.eq_zero_or_pos n with hn | hn
    · exact .inl hn
    · have := h (base + (n - 1)) (n - 1) (by omega) rfl
      exact .inr (by omega)
  · rintro (h | h) x k hk rfl
    · omega
    · omega

/-- When the check fails it names the lowest out-of-range address: the first of the bytes, or MEM_SIZE. -/
theorem firstBad_eq_some {base n a : Nat} :
    firstBad base n = some a ↔ n ≠ 0 ∧ memSize < base + n ∧ a = max base memSize := by
  have key : ∀ a, firstBad base n = some a → n ≠ 0 ∧ memSize < base + n ∧ a = max base memSize := by
    intro a h
    have hne : ¬ (n = 0 ∨ base + n ≤ memSize) := by
      rw [← firstBad_eq_none, h]; simp
    simp only [firstBad, List.find?_eq_some_iff_getElem, decide_eq_true_eq, List.length_map, List.length_range,
      List.getElem_map, List.getElem_range] at h
    obtain ⟨ha, k, hk, rfl, hlow⟩ := h
    refine ⟨by omega, by omega, ?_⟩
    rcases Nat.eq_zero_or_pos k with rfl | hk0
    · omega
    · have := hlow (k - 1) (by omega)
      simp only [Bool.not_eq_true', decide_eq_false_iff_not] at this
      omega
  refine ⟨key a, fun ⟨h0, h1, h2⟩ => ?_⟩
  cases hb : firstBad base n with
  | none => rw [firstBad_eq_none] at hb; omega
  | some b => rw [(key b hb).2.2, h2]

/-- The fetched word: there is one exactly when both bytes are in range, and it is big-endian. -/
theorem State.fetchWord?_eq_some {w : Word} : s.fetchWord? = some w ↔
    s.pc.toNat + 1 < memSize ∧ w = wordOfBytes (s.readMem s.pc.toNat) (s.readMem (s.pc.toNat + 1)) := by
  unfold State.fetchWord?
  cases h : firstBad s.pc.toNat 2 with
  | none =>
    rw [firstBad_eq_none] at h
    simp only [Option.some.injEq]
    exact ⟨fun e => ⟨by omega, e.symm⟩, fun e => e.2.symm⟩
  | some a =>
    rw [firstBad_eq_some] at h
    simp only [reduceCtorEq, false_iff]
    rintro ⟨h1, -⟩
    omega

theorem State.fetchWord?_eq_none : s.fetchWord? = none ↔ memSize ≤ s.pc.toNat + 1 := by
  unfold State.fetchWord?
  cases h : firstBad s.pc.toNat 2 with
  | none => rw [firstBad_eq_none] at h; simp only [reduceCtorEq, false_iff]; omega
  | some a => rw [firstBad_eq_some] at h; simp only [true_iff]; omega

/-- The fetched word depends on memory and `pc` only. -/
theorem State.fetchWord?_congr {s t : State} (hp : t.pc = s.pc) (hm : t.mem = s.mem) (hc : t.cfg = s.cfg) :
    t.fetchWord? = s.fetchWord? := by
  simp [State.fetchWord?, State.readMem, hp, hm, hc]

end Sys2Proof.Machine
end

