-- ==== Sys2Proof/Laws/Updates.lean ====
section
/-! SUPPORT. Which fields the updates with a case in them leave alone. -/

namespace Sys2Proof.Machine.State

variable (s : State)

/-! ### skipIf -/

@[simp] theorem skipIf_v (b : Bool) : (s.skipIf b).v = s.v := by unfold State.skipIf; split <;> rfl
@[simp] theorem skipIf_vUnwritten (b : Bool) : (s.skipIf b).vUnwritten = s.vUnwritten := by unfold State.skipIf; split <;> rfl
@[simp] theorem skipIf_i (b : Bool) : (s.skipIf b).i = s.i := by unfold State.skipIf; split <;> rfl
@[simp] theorem skipIf_iUnwritten (b : Bool) : (s.skipIf b).iUnwritten = s.iUnwritten := by unfold State.skipIf; split <;> rfl
@[simp] theorem skipIf_stack (b : Bool) : (s.skipIf b).stack = s.stack := by unfold State.skipIf; split <;> rfl
@[simp] theorem skipIf_stackUnwritten (b : Bool) : (s.skipIf b).stackUnwritten = s.stackUnwritten := by unfold State.skipIf; split <;> rfl
@[simp] theorem skipIf_sp (b : Bool) : (s.skipIf b).sp = s.sp := by unfold State.skipIf; split <;> rfl
@[simp] theorem skipIf_mem (b : Bool) : (s.skipIf b).mem = s.mem := by unfold State.skipIf; split <;> rfl
@[simp] theorem skipIf_disp (b : Bool) : (s.skipIf b).disp = s.disp := by unfold State.skipIf; split <;> rfl
@[simp] theorem skipIf_dispUnwritten (b : Bool) : (s.skipIf b).dispUnwritten = s.dispUnwritten := by unfold State.skipIf; split <;> rfl
@[simp] theorem skipIf_dt (b : Bool) : (s.skipIf b).dt = s.dt := by unfold State.skipIf; split <;> rfl
@[simp] theorem skipIf_st (b : Bool) : (s.skipIf b).st = s.st := by unfold State.skipIf; split <;> rfl
@[simp] theorem skipIf_keys (b : Bool) : (s.skipIf b).keys = s.keys := by unfold State.skipIf; split <;> rfl
@[simp] theorem skipIf_mode (b : Bool) : (s.skipIf b).mode = s.mode := by unfold State.skipIf; split <;> rfl
@[simp] theorem skipIf_cyclesIssued (b : Bool) : (s.skipIf b).cyclesIssued = s.cyclesIssued := by unfold State.skipIf; split <;> rfl
@[simp] theorem skipIf_clocksIssued (b : Bool) : (s.skipIf b).clocksIssued = s.clocksIssued := by unfold State.skipIf; split <;> rfl
@[simp] theorem skipIf_start (b : Bool) : (s.skipIf b).start = s.start := by unfold State.skipIf; split <;> rfl
@[simp] theorem skipIf_fault (b : Bool) : (s.skipIf b).fault = s.fault := by unfold State.skipIf; split <;> rfl
@[simp] theorem skipIf_events (b : Bool) : (s.skipIf b).events = s.events := by unfold State.skipIf; split <;> rfl
@[simp] theorem skipIf_cfg (b : Bool) : (s.skipIf b).cfg = s.cfg := by unfold State.skipIf; split <;> rfl
@[simp] theorem skipIf_draws (b : Bool) : (s.skipIf b).draws = s.draws := by unfold State.skipIf; split <;> rfl
@[simp] theorem skipIf_inputs (b : Bool) : (s.skipIf b).inputs = s.inputs := by unfold State.skipIf; split <;> rfl
@[simp] theorem skipIf_passes (b : Bool) : (s.skipIf b).passes = s.passes := by unfold State.skipIf; split <;> rfl
@[simp] theorem skipIf_now (b : Bool) : (s.skipIf b).now = s.now := by unfold State.skipIf; split <;> rfl
@[simp] theorem skipIf_render (b : Bool) : (s.skipIf b).render = s.render := by unfold State.skipIf; split <;> rfl
@[simp] theorem skipIf_cycleOk (b : Bool) : (s.skipIf b).cycleOk = s.cycleOk := by unfold State.skipIf; split <;> rfl

/-! ### writeAlu -/

@[simp] theorem writeAlu_i (x : Reg) (o : AluOut) : (s.writeAlu x o).i = s.i := by unfold State.writeAlu; split <;> rfl
@[simp] theorem writeAlu_iUnwritten (x : Reg) (o : AluOut) : (s.writeAlu x o).iUnwritten = s.iUnwritten := by unfold State.writeAlu; split <;> rfl
@[simp] theorem writeAlu_pc (x : Reg) (o : AluOut) : (s.writeAlu x o).pc = s.pc := by unfold State.writeAlu; split <;> rfl
@[simp] theorem writeAlu_stack (x : Reg) (o : AluOut) : (s.writeAlu x o).stack = s.stack := by unfold State.writeAlu; split <;> rfl
@[simp] theorem writeAlu_stackUnwritten (x : Reg) (o : AluOut) : (s.writeAlu x o).stackUnwritten = s.stackUnwritten := by unfold State.writeAlu; split <;> rfl
@[simp] theorem writeAlu_sp (x : Reg) (o : AluOut) : (s.writeAlu x o).sp = s.sp := by unfold State.writeAlu; split <;> rfl
@[simp] theorem writeAlu_mem (x : Reg) (o : AluOut) : (s.writeAlu x o).mem = s.mem := by unfold State.writeAlu; split <;> rfl
@[simp] theorem writeAlu_disp (x : Reg) (o : AluOut) : (s.writeAlu x o).disp = s.disp := by unfold State.writeAlu; split <;> rfl
@[simp] theorem writeAlu_dispUnwritten (x : Reg) (o : AluOut) : (s.writeAlu x o).dispUnwritten = s.dispUnwritten := by unfold State.writeAlu; split <;> rfl
@[simp] theorem writeAlu_dt (x : Reg) (o : AluOut) : (s.writeAlu x o).dt = s.dt := by unfold State.writeAlu; split <;> rfl
@[simp] theorem writeAlu_st (x : Reg) (o : AluOut) : (s.writeAlu x o).st = s.st := by unfold State.writeAlu; split <;> rfl
@[simp] theorem writeAlu_keys (x : Reg) (o : AluOut) : (s.writeAlu x o).keys = s.keys := by unfold State.writeAlu; split <;> rfl
@[simp] theorem writeAlu_mode (x : Reg) (o : AluOut) : (s.writeAlu x o).mode = s.mode := by unfold State.writeAlu; split <;> rfl
@[simp] theorem writeAlu_cyclesIssued (x : Reg) (o : AluOut) : (s.writeAlu x o).cyclesIssued = s.cyclesIssued := by unfold State.writeAlu; split <;> rfl
@[simp] theorem writeAlu_clocksIssued (x : Reg) (o : AluOut) : (s.writeAlu x o).clocksIssued = s.clocksIssued := by unfold State.writeAlu; split <;> rfl
@[simp] theorem writeAlu_start (x : Reg) (o : AluOut) : (s.writeAlu x o).start = s.start := by unfold State.writeAlu; split <;> rfl
@[simp] theorem writeAlu_fault (x : Reg) (o : AluOut) : (s.writeAlu x o).fault = s.fault := by unfold State.writeAlu; split <;> rfl
@[simp] theorem writeAlu_events (x : Reg) (o : AluOut) : (s.writeAlu x o).events = s.events := by unfold State.writeAlu; split <;> rfl
@[simp] theorem writeAlu_cfg (x : Reg) (o : AluOut) : (s.writeAlu x o).cfg = s.cfg := by unfold State.writeAlu; split <;> rfl
@[simp] theorem writeAlu_draws (x : Reg) (o : AluOut) : (s.writeAlu x o).draws = s.draws := by unfold State.writeAlu; split <;> rfl
@[simp] theorem writeAlu_inputs (x : Reg) (o : AluOut) : (s.writeAlu x o).inputs = s.inputs := by unfold State.writeAlu; split <;> rfl
@[simp] theorem writeAlu_passes (x : Reg) (o : AluOut) : (s.writeAlu x o).passes = s.passes := by unfold State.writeAlu; split <;> rfl
@[simp] theorem writeAlu_now (x : Reg) (o : AluOut) : (s.writeAlu x o).now = s.now := by unfold State.writeAlu; split <;> rfl
@[simp] theorem writeAlu_render (x : Reg) (o : AluOut) : (s.writeAlu x o).render = s.render := by unfold State.writeAlu; split <;> rfl
@[simp] theorem writeAlu_cycleOk (x : Reg) (o : AluOut) : (s.writeAlu x o).cycleOk = s.cycleOk := by unfold State.writeAlu; split <;> rfl

/-! ### bumpI -/

@[simp] theorem bumpI_v (x : Reg) : (s.bumpI x).v = s.v := by unfold State.bumpI; split <;> rfl
@[simp] theorem bumpI_vUnwritten (x : Reg) : (s.bumpI x).vUnwritten = s.vUnwritten := by unfold State.bumpI; split <;> rfl
@[simp] theorem bumpI_pc (x : Reg) : (s.bumpI x).pc = s.pc := by unfold State.bumpI; split <;> rfl
@[simp] theorem bumpI_stack (x : Reg) : (s.bumpI x).stack = s.stack := by unfold State.bumpI; split <;> rfl
@[simp] theorem bumpI_stackUnwritten (x : Reg) : (s.bumpI x).stackUnwritten = s.stackUnwritten := by unfold State.bumpI; split <;> rfl
@[simp] theorem bumpI_sp (x : Reg) : (s.bumpI x).sp = s.sp := by unfold State.bumpI; split <;> rfl
@[simp] theorem bumpI_mem (x : Reg) : (s.bumpI x).mem = s.mem := by unfold State.bumpI; split <;> rfl
@[simp] theorem bumpI_disp (x : Reg) : (s.bumpI x).disp = s.disp := by unfold State.bumpI; split <;> rfl
@[simp] theorem bumpI_dispUnwritten (x : Reg) : (s.bumpI x).dispUnwritten = s.dispUnwritten := by unfold State.bumpI; split <;> rfl
@[simp] theorem bumpI_dt (x : Reg) : (s.bumpI x).dt = s.dt := by unfold State.bumpI; split <;> rfl
@[simp] theorem bumpI_st (x : Reg) : (s.bumpI x).st = s.st := by unfold State.bumpI; split <;> rfl
@[simp] theorem bumpI_keys (x : Reg) : (s.bumpI x).keys = s.keys := by unfold State.bumpI; split <;> rfl
@[simp] theorem bumpI_mode (x : Reg) : (s.bumpI x).mode = s.mode := by unfold State.bumpI; split <;> rfl
@[simp] theorem bumpI_cyclesIssued (x : Reg) : (s.bumpI x).cyclesIssued = s.cyclesIssued := by unfold State.bumpI; split <;> rfl
@[simp] theorem bumpI_clocksIssued (x : Reg) : (s.bumpI x).clocksIssued = s.clocksIssued := by unfold State.bumpI; split <;> rfl
@[simp] theorem bumpI_start (x : Reg) : (s.bumpI x).start = s.start := by unfold State.bumpI; split <;> rfl
@[simp] theorem bumpI_fault (x : Reg) : (s.bumpI x).fault = s.fault := by unfold State.bumpI; split <;> rfl
@[simp] theorem bumpI_events (x : Reg) : (s.bumpI x).events = s.events := by unfold State.bumpI; split <;> rfl
@[simp] theorem bumpI_cfg (x : Reg) : (s.bumpI x).cfg = s.cfg := by unfold State.bumpI; split <;> rfl
@[simp] theorem bumpI_draws (x : Reg) : (s.bumpI x).draws = s.draws := by unfold State.bumpI; split <;> rfl
@[simp] theorem bumpI_inputs (x : Reg) : (s.bumpI x).inputs = s.inputs := by unfold State.bumpI; split <;> rfl
@[simp] theorem bumpI_passes (x : Reg) : (s.bumpI x).passes = s.passes := by unfold State.bumpI; split <;> rfl
@[simp] theorem bumpI_now (x : Reg) : (s.bumpI x).now = s.now := by unfold State.bumpI; split <;> rfl
@[simp] theorem bumpI_render (x : Reg) : (s.bumpI x).render = s.render := by unfold State.bumpI; split <;> rfl
@[simp] theorem bumpI_cycleOk (x : Reg) : (s.bumpI x).cycleOk = s.cycleOk := by unfold State.bumpI; split <;> rfl

/-! ### signalDone -/

@[simp] theorem signalDone_v : (s.signalDone).v = s.v := rfl
@[simp] theorem signalDone_vUnwritten : (s.signalDone).vUnwritten = s.vUnwritten := rfl
@[simp] theorem signalDone_i : (s.signalDone).i = s.i := rfl
@[simp] theorem signalDone_iUnwritten : (s.signalDone).iUnwritten = s.iUnwritten := rfl
@[simp] theorem signalDone_pc : (s.signalDone).pc = s.pc := rfl
@[simp] theorem signalDone_stack : (s.signalDone).stack = s.stack := rfl
@[simp] theorem signalDone_stackUnwritten : (s.signalDone).stackUnwritten = s.stackUnwritten := rfl
@[simp] theorem signalDone_sp : (s.signalDone).sp = s.sp := rfl
@[simp] theorem signalDone_mem : (s.signalDone).mem = s.mem := rfl
@[simp] theorem signalDone_disp : (s.signalDone).disp = s.disp := rfl
@[simp] theorem signalDone_dispUnwritten : (s.signalDone).dispUnwritten = s.dispUnwritten := rfl
@[simp] theorem signalDone_dt : (s.signalDone).dt = s.dt := rfl
@[simp] theorem signalDone_st : (s.signalDone).st = s.st := rfl
@[simp] theorem signalDone_keys : (s.signalDone).keys = s.keys := rfl
@[simp] theorem signalDone_mode : (s.signalDone).mode = s.mode := rfl
@[simp] theorem signalDone_cyclesIssued : (s.signalDone).cyclesIssued = s.cyclesIssued := rfl
@[simp] theorem signalDone_clocksIssued : (s.signalDone).clocksIssued = s.clocksIssued := rfl
@[simp] theorem signalDone_start : (s.signalDone).start = s.start := rfl
@[simp] theorem signalDone_fault : (s.signalDone).fault = s.fault := rfl
@[simp] theorem signalDone_events : (s.signalDone).events = s.events := rfl
@[simp] theorem signalDone_cfg : (s.signalDone).cfg = s.cfg := rfl
@[simp] theorem signalDone_draws : (s.signalDone).draws = s.draws := rfl
@[simp] theorem signalDone_inputs : (s.signalDone).inputs = s.inputs := rfl
@[simp] theorem signalDone_passes : (s.signalDone).passes = s.passes := rfl
@[simp] theorem signalDone_now : (s.signalDone).now = s.now := rfl
@[simp] theorem signalDone_render : (s.signalDone).render = s.render := rfl

/-! ### takeEvent -/

@[simp] theorem takeEvent_v (e : ModeEvent) : (s.takeEvent e).v = s.v := by unfold State.takeEvent; split <;> rfl
@[simp] theorem takeEvent_vUnwritten (e : ModeEvent) : (s.takeEvent e).vUnwritten = s.vUnwritten := by unfold State.takeEvent; split <;> rfl
@[simp] theorem takeEvent_i (e : ModeEvent) : (s.takeEvent e).i = s.i := by unfold State.takeEvent; split <;> rfl
@[simp] theorem takeEvent_iUnwritten (e : ModeEvent) : (s.takeEvent e).iUnwritten = s.iUnwritten := by unfold State.takeEvent; split <;> rfl
@[simp] theorem takeEvent_pc (e : ModeEvent) : (s.takeEvent e).pc = s.pc := by unfold State.takeEvent; split <;> rfl
@[simp] theorem takeEvent_stack (e : ModeEvent) : (s.takeEvent e).stack = s.stack := by unfold State.takeEvent; split <;> rfl
@[simp] theorem takeEvent_stackUnwritten (e : ModeEvent) : (s.takeEvent e).stackUnwritten = s.stackUnwritten := by unfold State.takeEvent; split <;> rfl
@[simp] theorem takeEvent_sp (e : ModeEvent) : (s.takeEvent e).sp = s.sp := by unfold State.takeEvent; split <;> rfl
@[simp] theorem takeEvent_mem (e : ModeEvent) : (s.takeEvent e).mem = s.mem := by unfold State.takeEvent; split <;> rfl
@[simp] theorem takeEvent_disp (e : ModeEvent) : (s.takeEvent e).disp = s.disp := by unfold State.takeEvent; split <;> rfl
@[simp] theorem takeEvent_dispUnwritten (e : ModeEvent) : (s.takeEvent e).dispUnwritten = s.dispUnwritten := by unfold State.takeEvent; split <;> rfl
@[simp] theorem takeEvent_dt (e : ModeEvent) : (s.takeEvent e).dt = s.dt := by unfold State.takeEvent; split <;> rfl
@[simp] theorem takeEvent_st (e : ModeEvent) : (s.takeEvent e).st = s.st := by unfold State.takeEvent; split <;> rfl
@[simp] theorem takeEvent_keys (e : ModeEvent) : (s.takeEvent e).keys = s.keys := by unfold State.takeEvent; split <;> rfl
@[simp] theorem takeEvent_fault (e : ModeEvent) : (s.takeEvent e).fault = s.fault := by unfold State.takeEvent; split <;> rfl
@[simp] theorem takeEvent_events (e : ModeEvent) : (s.takeEvent e).events = s.events := by unfold State.takeEvent; split <;> rfl
@[simp] theorem takeEvent_cfg (e : ModeEvent) : (s.takeEvent e).cfg = s.cfg := by unfold State.takeEvent; split <;> rfl
@[simp] theorem takeEvent_draws (e : ModeEvent) : (s.takeEvent e).draws = s.draws := by unfold State.takeEvent; split <;> rfl
@[simp] theorem takeEvent_inputs (e : ModeEvent) : (s.takeEvent e).inputs = s.inputs := by unfold State.takeEvent; split <;> rfl
@[simp] theorem takeEvent_passes (e : ModeEvent) : (s.takeEvent e).passes = s.passes := by unfold State.takeEvent; split <;> rfl
@[simp] theorem takeEvent_now (e : ModeEvent) : (s.takeEvent e).now = s.now := by unfold State.takeEvent; split <;> rfl
@[simp] theorem takeEvent_render (e : ModeEvent) : (s.takeEvent e).render = s.render := by unfold State.takeEvent; split <;> rfl
@[simp] theorem takeEvent_cycleOk (e : ModeEvent) : (s.takeEvent e).cycleOk = s.cycleOk := by unfold State.takeEvent; split <;> rfl

/-! ### fireTimer -/

@[simp] theorem fireTimer_v : (s.fireTimer).v = s.v := by unfold State.fireTimer; dsimp only; split <;> rfl
@[simp] theorem fireTimer_vUnwritten : (s.fireTimer).vUnwritten = s.vUnwritten := by unfold State.fireTimer; dsimp only; split <;> rfl
@[simp] theorem fireTimer_i : (s.fireTimer).i = s.i := by unfold State.fireTimer; dsimp only; split <;> rfl
@[simp] theorem fireTimer_iUnwritten : (s.fireTimer).iUnwritten = s.iUnwritten := by unfold State.fireTimer; dsimp only; split <;> rfl
@[simp] theorem fireTimer_pc : (s.fireTimer).pc = s.pc := by unfold State.fireTimer; dsimp only; split <;> rfl
@[simp] theorem fireTimer_stack : (s.fireTimer).stack = s.stack := by unfold State.fireTimer; dsimp only; split <;> rfl
@[simp] theorem fireTimer_stackUnwritten : (s.fireTimer).stackUnwritten = s.stackUnwritten := by unfold State.fireTimer; dsimp only; split <;> rfl
@[simp] theorem fireTimer_sp : (s.fireTimer).sp = s.sp := by unfold State.fireTimer; dsimp only; split <;> rfl
@[simp] theorem fireTimer_mem : (s.fireTimer).mem = s.mem := by unfold State.fireTimer; dsimp only; split <;> rfl
@[simp] theorem fireTimer_disp : (s.fireTimer).disp = s.disp := by unfold State.fireTimer; dsimp only; split <;> rfl
@[simp] theorem fireTimer_dispUnwritten : (s.fireTimer).dispUnwritten = s.dispUnwritten := by unfold State.fireTimer; dsimp only; split <;> rfl
@[simp] theorem fireTimer_keys : (s.fireTimer).keys = s.keys := by unfold State.fireTimer; dsimp only; split <;> rfl
@[simp] theorem fireTimer_mode : (s.fireTimer).mode = s.mode := by unfold State.fireTimer; dsimp only; split <;> rfl
@[simp] theorem fireTimer_cyclesIssued : (s.fireTimer).cyclesIssued = s.cyclesIssued := by unfold State.fireTimer; dsimp only; split <;> rfl
@[simp] theorem fireTimer_start : (s.fireTimer).start = s.start := by unfold State.fireTimer; dsimp only; split <;> rfl
@[simp] theorem fireTimer_fault : (s.fireTimer).fault = s.fault := by unfold State.fireTimer; dsimp only; split <;> rfl
@[simp] theorem fireTimer_events : (s.fireTimer).events = s.events := by unfold State.fireTimer; dsimp only; split <;> rfl
@[simp] theorem fireTimer_cfg : (s.fireTimer).cfg = s.cfg := by unfold State.fireTimer; dsimp only; split <;> rfl
@[simp] theorem fireTimer_draws : (s.fireTimer).draws = s.draws := by unfold State.fireTimer; dsimp only; split <;> rfl
@[simp] theorem fireTimer_inputs : (s.fireTimer).inputs = s.inputs := by unfold State.fireTimer; dsimp only; split <;> rfl
@[simp] theorem fireTimer_passes : (s.fireTimer).passes = s.passes := by unfold State.fireTimer; dsimp only; split <;> rfl
@[simp] theorem fireTimer_now : (s.fireTimer).now = s.now := by unfold State.fireTimer; dsimp only; split <;> rfl
@[simp] theorem fireTimer_cycleOk : (s.fireTimer).cycleOk = s.cycleOk := by unfold State.fireTimer; dsimp only; split <;> rfl

/-! ### timerClock -/

@[simp] theorem timerClock_v : (s.timerClock).v = s.v := by unfold State.timerClock; split <;> simp
@[simp] theorem timerClock_vUnwritten : (s.timerClock).vUnwritten = s.vUnwritten := by unfold State.timerClock; split <;> simp
@[simp] theorem timerClock_i : (s.timerClock).i = s.i := by unfold State.timerClock; split <;> simp
@[simp] theorem timerClock_iUnwritten : (s.timerClock).iUnwritten = s.iUnwritten := by unfold State.timerClock; split <;> simp
@[simp] theorem timerClock_pc : (s.timerClock).pc = s.pc := by unfold State.timerClock; split <;> simp
@[simp] theorem timerClock_stack : (s.timerClock).stack = s.stack := by unfold State.timerClock; split <;> simp
@[simp] theorem timerClock_stackUnwritten : (s.timerClock).stackUnwritten = s.stackUnwritten := by unfold State.timerClock; split <;> simp
@[simp] theorem timerClock_sp : (s.timerClock).sp = s.sp := by unfold State.timerClock; split <;> simp
@[simp] theorem timerClock_mem : (s.timerClock).mem = s.mem := by unfold State.timerClock; split <;> simp
@[simp] theorem timerClock_disp : (s.timerClock).disp = s.disp := by unfold State.timerClock; split <;> simp
@[simp] theorem timerClock_dispUnwritten : (s.timerClock).dispUnwritten = s.dispUnwritten := by unfold State.timerClock; split <;> simp
@[simp] theorem timerClock_keys : (s.timerClock).keys = s.keys := by unfold State.timerClock; split <;> simp
@[simp] theorem timerClock_mode : (s.timerClock).mode = s.mode := by unfold State.timerClock; split <;> simp
@[simp] theorem timerClock_cyclesIssued : (s.timerClock).cyclesIssued = s.cyclesIssued := by unfold State.timerClock; split <;> simp
@[simp] theorem timerClock_start : (s.timerClock).start = s.start := by unfold State.timerClock; split <;> simp
@[simp] theorem timerClock_fault : (s.timerClock).fault = s.fault := by unfold State.timerClock; split <;> simp
@[simp] theorem timerClock_events : (s.timerClock).events = s.events := by unfold State.timerClock; split <;> simp
@[simp] theorem timerClock_cfg : (s.timerClock).cfg = s.cfg := by unfold State.timerClock; split <;> simp
@[simp] theorem timerClock_draws : (s.timerClock).draws = s.draws := by unfold State.timerClock; split <;> simp
@[simp] theorem timerClock_inputs : (s.timerClock).inputs = s.inputs := by unfold State.timerClock; split <;> simp
@[simp] theorem timerClock_passes : (s.timerClock).passes = s.passes := by unfold State.timerClock; split <;> simp
@[simp] theorem timerClock_now : (s.timerClock).now = s.now := by unfold State.timerClock; split <;> simp
@[simp] theorem timerClock_cycleOk : (s.timerClock).cycleOk = s.cycleOk := by unfold State.timerClock; split <;> simp

/-! ### writeBytes -/

@[simp] theorem writeBytes_v (a : Nat) (bs : List Byte) : (s.writeBytes a bs).v = s.v := by
  induction bs generalizing s a with
  | nil => rfl
  | cons _ _ ih => exact (ih _ _).trans rfl
@[simp] theorem writeBytes_vUnwritten (a : Nat) (bs : List Byte) : (s.writeBytes a bs).vUnwritten = s.vUnwritten := by
  induction bs generalizing s a with
  | nil => rfl
  | cons _ _ ih => exact (ih _ _).trans rfl
@[simp] theorem writeBytes_i (a : Nat) (bs : List Byte) : (s.writeBytes a bs).i = s.i := by
  induction bs generalizing s a with
  | nil => rfl
  | cons _ _ ih => exact (ih _ _).trans rfl
@[simp] theorem writeBytes_iUnwritten (a : Nat) (bs : List Byte) : (s.writeBytes a bs).iUnwritten = s.iUnwritten := by
  induction bs generalizing s a with
  | nil => rfl
  | cons _ _ ih => exact (ih _ _).trans rfl
@[simp] theorem writeBytes_pc (a : Nat) (bs : List Byte) : (s.writeBytes a bs).pc = s.pc := by
  induction bs generalizing s a with
  | nil => rfl
  | cons _ _ ih => exact (ih _ _).trans rfl
@[simp] theorem writeBytes_stack (a : Nat) (bs : List Byte) : (s.writeBytes a bs).stack = s.stack := by
  induction bs generalizing s a with
  | nil => rfl
  | cons _ _ ih => exact (ih _ _).trans rfl
@[simp] theorem writeBytes_stackUnwritten (a : Nat) (bs : List Byte) : (s.writeBytes a bs).stackUnwritten = s.stackUnwritten := by
  induction bs generalizing s a with
  | nil => rfl
  | cons _ _ ih => exact (ih _ _).trans rfl
@[simp] theorem writeBytes_sp (a : Nat) (bs : List Byte) : (s.writeBytes a bs).sp = s.sp := by
  induction bs generalizing s a with
  | nil => rfl
  | cons _ _ ih => exact (ih _ _).trans rfl
@[simp] theorem writeBytes_disp (a : Nat) (bs : List Byte) : (s.writeBytes a bs).disp = s.disp := by
  induction bs generalizing s a with
  | nil => rfl
  | cons _ _ ih => exact (ih _ _).trans rfl
@[simp] theorem writeBytes_dispUnwritten (a : Nat) (bs : List Byte) : (s.writeBytes a bs).dispUnwritten = s.dispUnwritten := by
  induction bs generalizing s a with
  | nil => rfl
  | cons _ _ ih => exact (ih _ _).trans rfl
@[simp] theorem writeBytes_dt (a : Nat) (bs : List Byte) : (s.writeBytes a bs).dt = s.dt := by
  induction bs generalizing s a with
  | nil => rfl
  | cons _ _ ih => exact (ih _ _).trans rfl
@[simp] theorem writeBytes_st (a : Nat) (bs : List Byte) : (s.writeBytes a bs).st = s.st := by
  induction bs generalizing s a with
  | nil => rfl
  | cons _ _ ih => exact (ih _ _).trans rfl
@[simp] theorem writeBytes_keys (a : Nat) (bs : List Byte) : (s.writeBytes a bs).keys = s.keys := by
  induction bs generalizing s a with
  | nil => rfl
  | cons _ _ ih => exact (ih _ _).trans rfl
@[simp] theorem writeBytes_mode (a : Nat) (bs : List Byte) : (s.writeBytes a bs).mode = s.mode := by
  induction bs generalizing s a with
  | nil => rfl
  | cons _ _ ih => exact (ih _ _).trans rfl
@[simp] theorem writeBytes_cyclesIssued (a : Nat) (bs : List Byte) : (s.writeBytes a bs).cyclesIssued = s.cyclesIssued := by
  induction bs generalizing s a with
  | nil => rfl
  | cons _ _ ih => exact (ih _ _).trans rfl
@[simp] theorem writeBytes_clocksIssued (a : Nat) (bs : List Byte) : (s.writeBytes a bs).clocksIssued = s.clocksIssued := by
  induction bs generalizing s a with
  | nil => rfl
  | cons _ _ ih => exact (ih _ _).trans rfl
@[simp] theorem writeBytes_start (a : Nat) (bs : List Byte) : (s.writeBytes a bs).start = s.start := by
  induction bs generalizing s a with
  | nil => rfl
  | cons _ _ ih => exact (ih _ _).trans rfl
@[simp] theorem writeBytes_fault (a : Nat) (bs : List Byte) : (s.writeBytes a bs).fault = s.fault := by
  induction bs generalizing s a with
  | nil => rfl
  | cons _ _ ih => exact (ih _ _).trans rfl
@[simp] theorem writeBytes_events (a : Nat) (bs : List Byte) : (s.writeBytes a bs).events = s.events := by
  induction bs generalizing s a with
  | nil => rfl
  | cons _ _ ih => exact (ih _ _).trans rfl
@[simp] theorem writeBytes_cfg (a : Nat) (bs : List Byte) : (s.writeBytes a bs).cfg = s.cfg := by
  induction bs generalizing s a with
  | nil => rfl
  | cons _ _ ih => exact (ih _ _).trans rfl
@[simp] theorem writeBytes_draws (a : Nat) (bs : List Byte) : (s.writeBytes a bs).draws = s.draws := by
  induction bs generalizing s a with
  | nil => rfl
  | cons _ _ ih => exact (ih _ _).trans rfl
@[simp] theorem writeBytes_inputs (a : Nat) (bs : List Byte) : (s.writeBytes a bs).inputs = s.inputs := by
  induction bs generalizing s a with
  | nil => rfl
  | cons _ _ ih => exact (ih _ _).trans rfl
@[simp] theorem writeBytes_passes (a : Nat) (bs : List Byte) : (s.writeBytes a bs).passes = s.passes := by
  induction bs generalizing s a with
  | nil => rfl
  | cons _ _ ih => exact (ih _ _).trans rfl
@[simp] theorem writeBytes_now (a : Nat) (bs : List Byte) : (s.writeBytes a bs).now = s.now := by
  induction bs generalizing s a with
  | nil => rfl
  | cons _ _ ih => exact (ih _ _).trans rfl
@[simp] theorem writeBytes_render (a : Nat) (bs : List Byte) : (s.writeBytes a bs).render = s.render := by
  induction bs generalizing s a with
  | nil => rfl
  | cons _ _ ih => exact (ih _ _).trans rfl
@[simp] theorem writeBytes_cycleOk (a : Nat) (bs : List Byte) : (s.writeBytes a bs).cycleOk = s.cycleOk := by
  induction bs generalizing s a with
  | nil => rfl
  | cons _ _ ih => exact (ih _ _).trans rfl

end Sys2Proof.Machine.State
end

