-- ==== Sys2Proof/Laws/Ops.lean ====
section
/-! SUPPORT. What the named operations do: registers, program counter, stack, display, timers, keypad. -/

namespace Sys2Proof.Machine

variable (s : State)

/-! ### Continuing from an outcome -/

@[simp] theorem mapNext_next (f : State → State) : mapNext f (.next s) = .next (f s) := rfl

theorem mapNext_eq_next {f : State → State} {r : Result} {t : State} :
    mapNext f r = .next t ↔ ∃ u, r = .next u ∧ f u = t := by
  cases r <;> simp [mapNext]

/-! ### Registers -/

@[simp] theorem State.getV_setV (x y : Reg) (b : Byte) :
    (s.setV x b).getV y = if x = y then b else s.getV y := by
  simp [State.getV, Vector.getElem_set, Fin.ext_iff]

@[simp] theorem State.vUnwritten_setV_get (x y : Reg) (b : Byte) :
    (s.setV x b).vUnwritten[y] = if x = y then false else s.vUnwritten[y] := by
  simp [Vector.getElem_set, Fin.ext_iff]

theorem State.viewV_eq_some {x : Reg} {a : Byte} :
    s.viewV x = some a ↔ s.vUnwritten[x] = false ∧ s.getV x = a := by
  unfold State.viewV
  cases s.vUnwritten[x] <;> simp

theorem State.viewV_eq_none {x : Reg} : s.viewV x = none ↔ s.vUnwritten[x] = true := by
  unfold State.viewV
  cases s.vUnwritten[x] <;> simp

@[simp] theorem State.viewV_setV (x y : Reg) (b : Byte) :
    (s.setV x b).viewV y = if x = y then some b else s.viewV y := by
  unfold State.viewV
  rw [State.vUnwritten_setV_get, State.getV_setV]
  by_cases h : x = y <;> simp [h]

theorem State.viewI_eq_some {a : Word} : s.viewI = some a ↔ s.iUnwritten = false ∧ s.i = a := by
  unfold State.viewI
  cases s.iUnwritten <;> simp

theorem State.viewI_eq_none : s.viewI = none ↔ s.iUnwritten = true := by
  unfold State.viewI
  cases s.iUnwritten <;> simp

theorem State.viewStack_eq_some {k : Fin 16} {a : Word} :
    s.viewStack k = some a ↔ s.stackUnwritten[k] = false ∧ s.stack[k] = a := by
  unfold State.viewStack
  cases s.stackUnwritten[k] <;> simp

theorem State.viewStack_eq_none {k : Fin 16} : s.viewStack k = none ↔ s.stackUnwritten[k] = true := by
  unfold State.viewStack
  cases s.stackUnwritten[k] <;> simp

theorem State.viewCell_eq_none {y : Fin 32} {x : Fin 64} :
    s.viewCell y x = none ↔ s.dispUnwritten[y].getMsbD x = true := by
  unfold State.viewCell
  cases s.dispUnwritten[y].getMsbD x <;> simp

theorem State.viewCell_isSome {y : Fin 32} {x : Fin 64} :
    (s.viewCell y x).isSome ↔ s.dispUnwritten[y].getMsbD x = false := by
  unfold State.viewCell
  cases s.dispUnwritten[y].getMsbD x <;> simp

@[simp] theorem State.getV_setVUpTo (x y : Reg) (f : Nat → Byte) :
    (s.setVUpTo x f).getV y = if y ≤ x then f y else s.getV y := by
  simp [State.getV, State.setVUpTo]

@[simp] theorem State.vUnwritten_setVUpTo_get (x y : Reg) (f : Nat → Byte) :
    (s.setVUpTo x f).vUnwritten[y] = if y ≤ x then false else s.vUnwritten[y] := by
  simp [State.setVUpTo]

/-- The two ways the ALU's outputs are written (R181). -/
theorem State.writeAlu_noFlag (x : Reg) (b : Byte) : s.writeAlu x ⟨b, none⟩ = s.setV x b := rfl

theorem State.writeAlu_flag (x : Reg) (b f : Byte) :
    s.writeAlu x ⟨b, some f⟩ = (s.setV x b).setV regF f := rfl

/-- Registers that `writeAlu` does not name are kept. -/
theorem State.writeAlu_other {x y : Reg} (o : AluOut) (hx : x ≠ y) (hF : y ≠ regF) :
    (s.writeAlu x o).getV y = s.getV y ∧ (s.writeAlu x o).vUnwritten[y] = s.vUnwritten[y] := by
  unfold State.writeAlu
  split
  · rw [State.getV_setV, State.vUnwritten_setV_get, if_neg hx, if_neg hx]; exact ⟨rfl, rfl⟩
  · rw [State.getV_setV, State.vUnwritten_setV_get, State.getV_setV, State.vUnwritten_setV_get,
      if_neg hx, if_neg hx, if_neg (Ne.symm hF), if_neg (Ne.symm hF)]
    exact ⟨rfl, rfl⟩

/-! ### Program counter -/

theorem adv_toNat (a : Word) : (adv a).toNat = (a.toNat + 2) % pcMod := by
  simp only [adv, BitVec.toNat_ofNat, pcMod]; omega

/-- An advanced program counter is below 0x0FFE. -/
theorem adv_lt (a : Word) : (adv a).toNat < pcMod := by
  rw [adv_toNat]; exact Nat.mod_lt _ (by decide)

theorem State.skipIf_eq (b : Bool) :
    s.advance.skipIf b = { s with pc := if b then adv (adv s.pc) else adv s.pc } := by
  cases b <;> rfl

/-! ### Timers -/

theorem countDown_toNat (t : Byte) : (countDown t).toNat = t.toNat - 1 := by
  unfold countDown
  split
  · subst_vars; rfl
  · rename_i h
    have : t.toNat ≠ 0 := fun h0 => h (BitVec.eq_of_toNat_eq h0)
    simp only [BitVec.toNat_sub, BitVec.toNat_ofNat]
    omega

/-! ### Keypad -/

theorem mem_heldKeys {keys : BitVec 16} {k : Reg} : k ∈ heldKeys keys ↔ keys.getLsbD k.val = true := by
  simp [heldKeys]

/-- When a key is held the pick is a held key, whatever the draw. -/
theorem pickKey_mem (d : Nat) {l : List Reg} (h : l ≠ []) : pickKey d l ∈ l := by
  match l with
  | [] => exact absurd rfl h
  | [k] => simp [pickKey]
  | k :: j :: ks =>
    have hlt : d % (k :: j :: ks).length < (k :: j :: ks).length := Nat.mod_lt _ (by simp)
    simp only [pickKey, List.getD_eq_getElem _ _ hlt]
    exact List.getElem_mem hlt

theorem heldKeys_ne_nil {keys : BitVec 16} (h : keys ≠ 0) : heldKeys keys ≠ [] := by
  intro e
  refine h (BitVec.eq_of_getLsbD_eq fun k hk => ?_)
  have : (⟨k, hk⟩ : Reg) ∉ heldKeys keys := by simp [e]
  rw [mem_heldKeys] at this
  simpa using this

/-! ### Display -/

theorem placed_getMsbD (row : Byte) (x0 x : Nat) (hx : x < 64) :
    (placed row x0).getMsbD x = (decide (x0 ≤ x) && decide (x - x0 < 8) && row.getLsbD (7 - (x - x0))) := by
  simp only [placed, BitVec.getMsbD_ushiftRight, BitVec.getMsbD_shiftLeft, BitVec.getMsbD_setWidth]
  by_cases h : x0 ≤ x
  · by_cases h8 : x - x0 < 8
    · simp [h, hx, h8, show ¬ x < x0 by omega]
      rw [BitVec.getMsbD_eq_getLsbD]
      simp [h8]
    · simp [h8]
      intro _ _
      rw [BitVec.getMsbD_eq_getLsbD]
      simp [h8]
  · simp [h, show x < x0 by omega]

@[simp] theorem State.cell_xorDisp (p : Vector (BitVec 64) 32) (y : Fin 32) (x : Fin 64) :
    (s.xorDisp p).cell y x = (s.cell y x != p[y].getMsbD x) := by
  simp [State.cell, State.xorDisp]

/-- The cells a pattern marks are those an unclipped sprite bit of 1 covers. -/
theorem State.pattern_getMsbD (base n x0 y0 : Nat) (y : Fin 32) (x : Fin 64) :
    (s.pattern base n x0 y0)[y].getMsbD x = true ↔
      ∃ r c, r < n ∧ c < 8 ∧ y.val = y0 + r ∧ x.val = x0 + c ∧ (s.readMem (base + r)).getLsbD (7 - c) = true := by
  simp only [State.pattern, Fin.getElem_fin, Vector.getElem_ofFn]
  split
  · rename_i h
    rw [placed_getMsbD _ _ _ x.isLt]
    simp only [Bool.and_eq_true, decide_eq_true_eq]
    constructor
    · rintro ⟨⟨h1, h2⟩, h3⟩
      exact ⟨y.val - y0, x.val - x0, by omega, h2, by omega, by omega, h3⟩
    · rintro ⟨r, c, h1, h2, h3, h4, h5⟩
      have e1 : y.val - y0 = r := by omega
      have e2 : x.val - x0 = c := by omega
      rw [e1, e2]
      exact ⟨⟨by omega, h2⟩, h5⟩
  · rename_i h
    simp only [BitVec.getMsbD_zero, Bool.false_eq_true, false_iff]
    rintro ⟨r, c, h1, -, h3, -⟩
    omega

/-- A bit of the cells under a sprite row: the cell of that column, 0 beyond the edge. -/
theorem cellsUnder_getMsbD (row : BitVec 64) (x0 c : Nat) (hc : c < 8) :
    (cellsUnder row x0).getMsbD c = row.getMsbD (x0 + c) := by
  rw [cellsUnder, BitVec.getMsbD_eq_getLsbD]
  simp only [hc, decide_true, Bool.true_and, BitVec.getLsbD_extractLsb']
  rw [BitVec.getLsbD_eq_getMsbD, BitVec.getMsbD_shiftLeft]
  simp only [show 8 - 1 - c < 8 by omega, show 56 + (8 - 1 - c) < 64 by omega, decide_true, Bool.true_and]
  rw [show 64 - 1 - (56 + (8 - 1 - c)) + x0 = x0 + c by omega]

/-- The detector sees a collision exactly when some visible sprite bit of 1 lies over a cell of 1 (R64). -/
theorem collide_iff (a b v : Byte) :
    collide a b v = true ↔ ∃ c < 8, a.getMsbD c = true ∧ b.getMsbD c = true ∧ v.getMsbD c = true := by
  simp only [collide, ne_eq, decide_not, Bool.not_eq_true', decide_eq_false_iff_not]
  constructor
  · intro h
    by_contra hn
    push Not at hn
    refine h (BitVec.eq_of_getMsbD_eq fun c hc => ?_)
    have := hn c hc
    simp only [BitVec.getMsbD_and, BitVec.getMsbD_zero]
    cases ha : a.getMsbD c <;> cases hb : b.getMsbD c <;> cases hv : v.getMsbD c <;> simp_all
  · rintro ⟨c, -, ha, hb, hv⟩ h
    have := congrArg (fun w => w.getMsbD c) h
    simp [ha, hb, hv] at this

/-- `hit` says that a covered cell held 1. -/
theorem State.spriteHit_iff (base n x0 y0 : Nat) :
    s.spriteHit base n x0 y0 = true ↔
      ∃ (y : Fin 32) (x : Fin 64), (s.pattern base n x0 y0)[y].getMsbD x = true ∧ s.cell y x = true := by
  simp only [State.spriteHit, List.any_eq_true, List.mem_range]
  constructor
  · rintro ⟨r, hr, h⟩
    split at h
    · rename_i hy
      obtain ⟨c, hc, h1, h2, h3⟩ := (collide_iff _ _ _).1 h
      rw [cellsUnder_getMsbD _ _ _ hc] at h2
      rw [visibleFrom, cellsUnder_getMsbD _ _ _ hc, BitVec.getMsbD_eq_getLsbD] at h3
      have hx : x0 + c < 64 := by
        simp only [Bool.and_eq_true, decide_eq_true_eq] at h3
        exact h3.1
      refine ⟨⟨y0 + r, hy⟩, ⟨x0 + c, hx⟩, (s.pattern_getMsbD ..).2 ⟨r, c, hr, hc, rfl, rfl, ?_⟩, h2⟩
      rw [BitVec.getMsbD_eq_getLsbD] at h1
      simpa [hc] using h1
    · simp at h
  · rintro ⟨y, x, h1, h2⟩
    obtain ⟨r, c, hr, hc, hy, hx, hb⟩ := (s.pattern_getMsbD ..).1 h1
    refine ⟨r, hr, ?_⟩
    have hy' : y0 + r < 32 := by have := y.isLt; omega
    rw [dif_pos hy', collide_iff]
    refine ⟨c, hc, ?_, ?_, ?_⟩
    · rw [BitVec.getMsbD_eq_getLsbD]; simpa [hc] using hb
    · rw [cellsUnder_getMsbD _ _ _ hc, ← hx]
      simpa [State.cell, hy] using h2
    · rw [visibleFrom, cellsUnder_getMsbD _ _ _ hc, BitVec.getMsbD_eq_getLsbD]
      have := x.isLt
      rw [BitVec.getLsbD_allOnes]
      simp only [Bool.and_eq_true, decide_eq_true_eq]
      omega

/-- No read of an unwritten cell is found exactly when every marked cell is written. -/
theorem State.firstUnwrittenCell_eq_none {p : Vector (BitVec 64) 32} :
    s.firstUnwrittenCell p = none ↔
      ∀ (y : Fin 32) (x : Fin 64), p[y].getMsbD x = true → s.dispUnwritten[y].getMsbD x = false := by
  simp only [State.firstUnwrittenCell, List.findSome?_eq_none_iff, List.mem_finRange, true_implies]
  refine forall_congr' fun y => ?_
  split
  · rename_i h
    simp only [true_iff]
    intro x hx
    have := congrArg (fun w => w.getMsbD x.val) h
    simp only [BitVec.getMsbD_and, hx, BitVec.getMsbD_zero, Bool.true_and] at this
    exact this
  · simp only [Option.map_eq_none_iff, List.find?_eq_none, List.mem_finRange, true_implies,
      BitVec.getMsbD_and, Bool.and_eq_true, not_and, Bool.not_eq_true]

/-- In the rising list of a finite type's numbers, the first one that passes a test is the least one that does. -/
theorem find?_finRange_eq_some {n : Nat} {p : Fin n → Bool} {k : Fin n} :
    (List.finRange n).find? p = some k ↔ p k = true ∧ ∀ j, p j = true → k ≤ j := by
  have least : ∀ k, (List.finRange n).find? p = some k → p k = true ∧ ∀ j, p j = true → k ≤ j := by
    intro k h
    rw [List.find?_eq_some_iff_append] at h
    obtain ⟨hk, l₁, l₂, hl, hlow⟩ := h
    refine ⟨hk, fun j hj => ?_⟩
    have hmem : j ∈ l₁ ++ k :: l₂ := hl ▸ List.mem_finRange j
    have hpw : (l₁ ++ k :: l₂).Pairwise (· < ·) := hl ▸ List.pairwise_lt_finRange n
    rcases List.mem_append.1 hmem with hm | hm
    · have := hlow j hm; simp [hj] at this
    · rcases List.mem_cons.1 hm with rfl | hm
      · exact le_rfl
      · exact le_of_lt ((List.pairwise_cons.1 (List.pairwise_append.1 hpw).2.1).1 j hm)
  refine ⟨least k, fun ⟨hk, hle⟩ => ?_⟩
  cases hf : (List.finRange n).find? p with
  | none => rw [List.find?_eq_none] at hf; exact absurd hk (hf k (List.mem_finRange k))
  | some j => rw [le_antisymm ((least j hf).2 k hk) (hle j (least j hf).1)]

/-- The read of an unwritten cell that is found is the first one: rows downwards, columns rightwards (R280). -/
theorem State.firstUnwrittenCell_eq_some {p : Vector (BitVec 64) 32} {c : CellName} :
    s.firstUnwrittenCell p = some c ↔
      ∃ (y : Fin 32) (x : Fin 64), c = .disp y x ∧
        (p[y].getMsbD x = true ∧ s.dispUnwritten[y].getMsbD x = true) ∧
        ∀ (v : Fin 32) (u : Fin 64), p[v].getMsbD u = true → s.dispUnwritten[v].getMsbD u = true →
          y < v ∨ (y = v ∧ x ≤ u) := by
  have first : ∀ c, s.firstUnwrittenCell p = some c →
      ∃ (y : Fin 32) (x : Fin 64), c = .disp y x ∧
        (p[y].getMsbD x = true ∧ s.dispUnwritten[y].getMsbD x = true) ∧
        ∀ (v : Fin 32) (u : Fin 64), p[v].getMsbD u = true → s.dispUnwritten[v].getMsbD u = true →
          y < v ∨ (y = v ∧ x ≤ u) := by
    intro c h
    simp only [State.firstUnwrittenCell, List.findSome?_eq_some_iff] at h
    obtain ⟨l₁, y, l₂, hl, hy, hlow⟩ := h
    split at hy
    · simp at hy
    · simp only [Option.map_eq_some_iff] at hy
      obtain ⟨x, hx, rfl⟩ := hy
      rw [find?_finRange_eq_some] at hx
      obtain ⟨hx, hle⟩ := hx
      rw [BitVec.getMsbD_and, Bool.and_eq_true] at hx
      refine ⟨y, x, rfl, hx, fun v u h1 h2 => ?_⟩
      have hmem : v ∈ l₁ ++ y :: l₂ := hl ▸ List.mem_finRange v
      have hpw : (l₁ ++ y :: l₂).Pairwise (· < ·) := hl ▸ List.pairwise_lt_finRange 32
      rcases List.mem_append.1 hmem with hm | hm
      · exfalso
        have := hlow v hm
        split at this
        · rename_i h0
          have := congrArg (fun w => w.getMsbD u.val) h0
          simp only [BitVec.getMsbD_and, h1, h2, BitVec.getMsbD_zero] at this
          cases this
        · simp only [Option.map_eq_none_iff, List.find?_eq_none, List.mem_finRange, true_implies,
            BitVec.getMsbD_and, Bool.and_eq_true, not_and] at this
          exact this u h1 h2
      · rcases List.mem_cons.1 hm with rfl | hm
        · exact .inr ⟨rfl, hle u (by rw [BitVec.getMsbD_and, h1, h2]; rfl)⟩
        · exact .inl ((List.pairwise_cons.1 (List.pairwise_append.1 hpw).2.1).1 v hm)
  refine ⟨first c, ?_⟩
  rintro ⟨y, x, rfl, ⟨h1, h2⟩, hle⟩
  cases hf : s.firstUnwrittenCell p with
  | none =>
    rw [State.firstUnwrittenCell_eq_none] at hf
    rw [hf y x h1] at h2
    cases h2
  | some d =>
    obtain ⟨v, u, rfl, ⟨h3, h4⟩, hle'⟩ := first d hf
    have a := hle v u h3 h4
    have b := hle' y x h1 h2
    have hv : v = y := by
      rcases a with a | a <;> rcases b with b | b
      · exact absurd (lt_trans a b) (lt_irrefl _)
      · exact b.1
      · exact a.1.symm
      · exact b.1
    subst hv
    have hu : u = x := le_antisymm
      (b.elim (fun h => absurd h (lt_irrefl _)) (·.2)) (a.elim (fun h => absurd h (lt_irrefl _)) (·.2))
    rw [hu]

end Sys2Proof.Machine
end

