-- ==== Sys2Proof/Laws/Operands.lean ====
section
/-! SUPPORT. Reading operands: what each read can answer, once, and what it answers when it succeeds. -/

namespace Sys2Proof.Machine

variable {s t : State}

/-! ### Reads that succeed -/

theorem withV_of_view {x : Reg} {a : Byte} {go : Byte → Result} (h : s.viewV x = some a) :
    withV x s go = go a := by
  rw [State.viewV_eq_some] at h
  simp only [withV, h.1, h.2, Bool.false_eq_true, if_false]

theorem withI_of_view {i : Word} {go : Word → Result} (h : s.viewI = some i) : withI s go = go i := by
  rw [State.viewI_eq_some] at h
  simp only [withI, h.1, h.2, Bool.false_eq_true, if_false]

theorem withTop_of_view {a : Word} {go : Word → Result} (h : s.viewStack s.sp = some a) :
    withTop s go = go a := by
  rw [State.viewStack_eq_some] at h
  simp only [withTop, h.1, State.top, h.2, Bool.false_eq_true, if_false]

theorem withRange_of_inRange {base n : Nat} {go : Result} (h : n = 0 ∨ base + n ≤ memSize) :
    withRange base n s go = go := by
  simp only [withRange, firstBad_eq_none.2 h]

theorem withVUpTo_of_written {x : Reg} {go : List Byte → Result}
    (h : ∀ k : Reg, k ≤ x → s.vUnwritten[k] = false) :
    withVUpTo x s go = go (((List.finRange 16).take (x.val + 1)).map s.getV) := by
  have : (List.finRange 16).find? (fun k : Fin 16 => decide (k ≤ x) && s.vUnwritten[k]) = none := by
    rw [List.find?_eq_none]
    intro k _
    by_cases hk : k ≤ x
    · rw [h k hk]; simp
    · simp [hk]
  simp only [withVUpTo, this]

/-! ### The increment of I under the `memory` quirk -/

@[simp] theorem State.readMem_bumpI (x : Reg) (a : Nat) : (s.bumpI x).readMem a = s.readMem a :=
  State.readMem_congr (by simp) (by simp) a

@[simp] theorem State.getV_bumpI (x y : Reg) : (s.bumpI x).getV y = s.getV y := by
  simp [State.getV]

/-! ### Reads that raise -/

theorem withV_raises {x : Reg} {go : Byte → Result} (h : s.viewV x = none) :
    withV x s go = .next (s.raise (.unwrittenRead (.v x))) := by
  rw [State.viewV_eq_none] at h
  simp only [withV, h, if_true, raised]

theorem withI_raises {go : Word → Result} (h : s.viewI = none) :
    withI s go = .next (s.raise (.unwrittenRead .i)) := by
  rw [State.viewI_eq_none] at h
  simp only [withI, h, if_true, raised]

theorem withTop_raises {go : Word → Result} (h : s.viewStack s.sp = none) :
    withTop s go = .next (s.raise (.unwrittenRead (.stack s.sp))) := by
  rw [State.viewStack_eq_none] at h
  simp only [withTop, h, if_true, raised]

theorem withRange_raises {base n : Nat} {go : Result} (h0 : n ≠ 0) (h : memSize < base + n) :
    withRange base n s go = .next (s.raise (.memoryOutOfRange (max base memSize))) := by
  simp only [withRange, firstBad_eq_some.2 ⟨h0, h, rfl⟩, raised]

/-- The first unwritten register up to V[x] raises. -/
theorem withVUpTo_raises {x k : Reg} {go : List Byte → Result} (hk : k ≤ x) (h : s.viewV k = none)
    (hlow : ∀ j : Reg, j < k → s.vUnwritten[j] = false) :
    withVUpTo x s go = .next (s.raise (.unwrittenRead (.v k))) := by
  rw [State.viewV_eq_none] at h
  have : (List.finRange 16).find? (fun k : Fin 16 => decide (k ≤ x) && s.vUnwritten[k]) = some k := by
    rw [find?_finRange_eq_some]
    refine ⟨by rw [h]; simp [hk], fun j hj => ?_⟩
    simp only [Bool.and_eq_true] at hj
    by_contra hlt
    rw [hlow j (not_le.1 hlt)] at hj
    cases hj.2
  simp only [withVUpTo, this, raised]

/-! ### What a read can answer -/

/-- The cell is unwritten (R57). -/
def CellUnwritten (s : State) : CellName → Prop
  | .v x      => s.vUnwritten[x] = true
  | .i        => s.iUnwritten = true
  | .stack k  => s.stackUnwritten[k] = true
  | .disp y x => s.dispUnwritten[y].getMsbD x = true

/-- The state is the one `raise` leaves, and an UnwrittenRead names a cell that is unwritten. -/
def Raises (s t : State) : Prop := ∃ c, t = s.raise c ∧ ∀ n, c = .unwrittenRead n → CellUnwritten s n

theorem raised_next {c : Cause} (hc : ∀ n, c = .unwrittenRead n → CellUnwritten s n)
    (h : raised c s = .next t) : Raises s t := by
  simp only [raised, Host.Outcome.next.injEq] at h
  exact ⟨c, h.symm, hc⟩

theorem withV_next {x : Reg} {go : Byte → Result} (h : withV x s go = .next t) :
    Raises s t ∨ go (s.getV x) = .next t := by
  unfold withV at h
  split at h
  · exact .inl (raised_next (by rintro _ ⟨⟩; assumption) h)
  · exact .inr h

theorem withI_next {go : Word → Result} (h : withI s go = .next t) : Raises s t ∨ go s.i = .next t := by
  unfold withI at h
  split at h
  · exact .inl (raised_next (by rintro _ ⟨⟩; assumption) h)
  · exact .inr h

theorem withTop_next {go : Word → Result} (h : withTop s go = .next t) :
    Raises s t ∨ go s.top = .next t := by
  unfold withTop at h
  split at h
  · exact .inl (raised_next (by rintro _ ⟨⟩; assumption) h)
  · exact .inr h

theorem withRange_next {base n : Nat} {go : Result} (h : withRange base n s go = .next t) :
    Raises s t ∨ ((n = 0 ∨ base + n ≤ memSize) ∧ go = .next t) := by
  unfold withRange at h
  split at h
  · exact .inl (raised_next (by rintro _ ⟨⟩) h)
  · exact .inr ⟨firstBad_eq_none.1 ‹_›, h⟩

theorem withVUpTo_next {x : Reg} {go : List Byte → Result} (h : withVUpTo x s go = .next t) :
    Raises s t ∨ go (((List.finRange 16).take (x.val + 1)).map s.getV) = .next t := by
  unfold withVUpTo at h
  split at h
  · rename_i k hk
    rw [find?_finRange_eq_some] at hk
    simp only [Bool.and_eq_true] at hk
    exact .inl (raised_next (by rintro _ ⟨⟩; exact hk.1.2) h)
  · exact .inr h

theorem withSpriteBase_next {n : Nat} {go : Nat → Result} (h : withSpriteBase n s go = .next t) :
    Raises s t ∨ ∃ base, go base = .next t := by
  unfold withSpriteBase at h
  split at h
  · exact .inr ⟨0, h⟩
  · exact (withI_next h).imp_right fun h => ⟨_, h⟩

/-! ### A read always answers a next state when what follows it does -/

theorem withV_answers {x : Reg} {go : Byte → Result} (h : ∀ a, ∃ t, go a = .next t) :
    ∃ t, withV x s go = .next t := by
  unfold withV
  split
  · exact ⟨_, rfl⟩
  · exact h _

theorem withI_answers {go : Word → Result} (h : ∀ a, ∃ t, go a = .next t) : ∃ t, withI s go = .next t := by
  unfold withI
  split
  · exact ⟨_, rfl⟩
  · exact h _

theorem withTop_answers {go : Word → Result} (h : ∀ a, ∃ t, go a = .next t) :
    ∃ t, withTop s go = .next t := by
  unfold withTop
  split
  · exact ⟨_, rfl⟩
  · exact h _

theorem withRange_answers {base n : Nat} {go : Result} (h : ∃ t, go = .next t) :
    ∃ t, withRange base n s go = .next t := by
  unfold withRange
  split
  · exact ⟨_, rfl⟩
  · exact h

theorem withVUpTo_answers {x : Reg} {go : List Byte → Result} (h : ∀ l, ∃ t, go l = .next t) :
    ∃ t, withVUpTo x s go = .next t := by
  unfold withVUpTo
  split
  · exact ⟨_, rfl⟩
  · exact h _

theorem withSpriteBase_answers {n : Nat} {go : Nat → Result} (h : ∀ b, ∃ t, go b = .next t) :
    ∃ t, withSpriteBase n s go = .next t := by
  unfold withSpriteBase
  split
  · exact h _
  · exact withI_answers fun _ => h _

end Sys2Proof.Machine
end

