-- ==== Sys2Proof/Laws/Exec.lean ====
section
/-! SUPPORT. What one instruction can do, said once: `exec_effect` gives, for each instruction that answers a next
state, the update of the state that it is. Whole-machine rules are proved from it by cases, without unfolding a
meaning. -/

namespace Sys2Proof.Machine

variable {s t : State}

/-- The next states an instruction can answer from `s`. Where only some instructions have an effect, they are named. -/
inductive Effect (s : State) : Instr → State → Prop where
  | raise {i t} (h : Raises s t) : Effect s i t
  | alu {i} (x : Reg) (o : AluOut) : Effect s i (s.advance.writeAlu x o)
  | aluDraw {i} (x : Reg) (o : AluOut) : Effect s i (s.advance.countDraw.writeAlu x o)
  | skip {i} (b : Bool) : Effect s i (s.advance.skipIf b)
  | jump {i} (a : Word) (h : a.toNat ≤ 0x10FE) : Effect s i (s.advance.setPc a)
  | wait {x} : Effect s (.ldVxK x) (s.advance.setPc s.pc)
  | key {x} (b : Byte) : Effect s (.ldVxK x) (s.advance.countDraw.setV x b)
  | call {addr} (h : s.sp ≠ 15) :
      Effect s (.call addr) ((s.advance.push s.advance.pc).setPc (addr.setWidth 16))
  | ret (h : s.sp ≠ 0) : Effect s .ret (s.advance.pop.setPc s.top)
  | setI {i} (a : Word) (h : (∃ addr, i = .ldI addr) ∨ (∃ x, i = .addI x) ∨ ∃ x, i = .ldF x) :
      Effect s i (s.advance.setI a)
  | digits {x} (base : Nat) (bytes : List Byte) (h : base + bytes.length ≤ memSize) :
      Effect s (.ldB x) (s.advance.writeBytes base bytes)
  | store {x} (base : Nat) (bytes : List Byte) (h : base + bytes.length ≤ memSize) :
      Effect s (.ldMemVx x) ((s.advance.writeBytes base bytes).bumpI x)
  | load {x} (f : Nat → Byte) : Effect s (.ldVxMem x) ((s.advance.setVUpTo x f).bumpI x)
  | clear : Effect s .cls s.advance.clearDisp
  | draw {x y n} (p : Vector (BitVec 64) 32) (b : Byte) :
      Effect s (.drw x y n) ((s.advance.xorDisp p).setV regF b)
  | readDT {x} : Effect s (.ldVxDT x) (s.advance.setV x s.dt)
  | setDT {x} (b : Byte) : Effect s (.ldDTVx x) (s.advance.setDT b)
  | setST {x} (b : Byte) : Effect s (.ldSTVx x) (s.advance.setST b)

theorem Effect.of_eq {i : Instr} {t' : State} (h : Effect s i t') (e : (.next t' : Result) = .next t) :
    Effect s i t := by
  cases e; exact h

theorem effect_aluRegs {i : Instr} {f : AluFn} {x y : Reg} (h : aluRegs f x y s = .next t) : Effect s i t := by
  rcases withV_next h with h | h
  · exact .raise h
  rcases withV_next h with h | h
  · exact .raise h
  exact (Effect.alu _ _).of_eq h

theorem effect_aluOne {i : Instr} {f : AluFn} {x : Reg} {b : Byte} (h : aluOne f x b s = .next t) :
    Effect s i t := by
  rcases withV_next h with h | h
  · exact .raise h
  exact (Effect.alu _ _).of_eq h

theorem effect_withV {i : Instr} {x : Reg} {go : Byte → Result} (h : withV x s go = .next t)
    (hgo : ∀ a, go a = .next t → Effect s i t) : Effect s i t :=
  (withV_next h).elim .raise (hgo _)

theorem effect_withKey {i : Instr} {x : Reg} {go : Nat → Result} (h : withKey x s go = .next t)
    (hgo : ∀ k, go k = .next t → Effect s i t) : Effect s i t := by
  refine effect_withV h fun a h => ?_
  split at h
  · exact .raise (raised_next (by rintro _ ⟨⟩) h)
  · exact hgo _ h

/-- What an instruction that answers a next state has done. -/
theorem exec_effect {i : Instr} (h : exec i s = .next t) : Effect s i t := by
  cases i with
  | cls => exact Effect.clear.of_eq h
  | ret =>
    simp only [exec, execRet] at h
    split at h
    · exact .raise (raised_next (by rintro _ ⟨⟩) h)
    rcases withTop_next h with h | h
    · exact .raise h
    exact (Effect.ret ‹_›).of_eq h
  | jp addr =>
    refine (Effect.jump _ ?_).of_eq h
    have := addr.isLt
    rw [BitVec.toNat_setWidth, Nat.mod_eq_of_lt (by omega)]
    omega
  | call addr =>
    simp only [exec, execCall] at h
    split at h
    · exact .raise (raised_next (by rintro _ ⟨⟩) h)
    exact (Effect.call ‹_›).of_eq h
  | seByte x byte =>
    simp only [exec, execSeByte] at h
    exact effect_withV h fun _ h => (Effect.skip _).of_eq h
  | sneByte x byte =>
    simp only [exec, execSneByte] at h
    exact effect_withV h fun _ h => (Effect.skip _).of_eq h
  | seReg x y =>
    simp only [exec, execSeReg] at h
    exact effect_withV h fun _ h => effect_withV h fun _ h => (Effect.skip _).of_eq h
  | ldByte x byte => exact (Effect.alu _ _).of_eq h
  | addByte x byte => exact effect_aluOne h
  | ldReg x y =>
    simp only [exec, execLdReg] at h
    exact effect_withV h fun _ h => (Effect.alu _ _).of_eq h
  | orReg x y => exact effect_aluRegs h
  | andReg x y => exact effect_aluRegs h
  | xorReg x y => exact effect_aluRegs h
  | addReg x y => exact effect_aluRegs h
  | subReg x y => exact effect_aluRegs h
  | shr x y => exact effect_aluOne h
  | subnReg x y => exact effect_aluRegs h
  | shl x y => exact effect_aluOne h
  | sneReg x y =>
    simp only [exec, execSneReg] at h
    exact effect_withV h fun _ h => effect_withV h fun _ h => (Effect.skip _).of_eq h
  | ldI addr => exact (Effect.setI _ (.inl ⟨_, rfl⟩)).of_eq h
  | jpV0 addr =>
    simp only [exec, execJpV0] at h
    refine effect_withV h fun a h => (Effect.jump _ ?_).of_eq h
    have := addr.isLt
    have := a.isLt
    rw [BitVec.toNat_add, BitVec.toNat_setWidth, BitVec.toNat_setWidth, Nat.mod_eq_of_lt (by omega),
      Nat.mod_eq_of_lt (b := 2 ^ 16) (by omega)]
    omega
  | rnd x byte => exact (Effect.aluDraw _ _).of_eq h
  | drw x y n =>
    simp only [exec, execDrw] at h
    refine effect_withV h fun a h => effect_withV h fun b h => ?_
    rcases withSpriteBase_next h with h | ⟨base, h⟩
    · exact .raise h
    rcases withRange_next h with h | ⟨-, h⟩
    · exact .raise h
    unfold drawSprite at h
    split at h
    · rename_i c hc
      rw [State.firstUnwrittenCell_eq_some] at hc
      obtain ⟨v, u, rfl, ⟨-, hu⟩, -⟩ := hc
      exact .raise (raised_next (by rintro _ ⟨⟩; exact hu) h)
    · exact (Effect.draw _ _).of_eq h
  | skp x =>
    simp only [exec, execSkp] at h
    exact effect_withKey h fun _ h => (Effect.skip _).of_eq h
  | sknp x =>
    simp only [exec, execSknp] at h
    exact effect_withKey h fun _ h => (Effect.skip _).of_eq h
  | ldVxDT x => exact Effect.readDT.of_eq h
  | ldVxK x =>
    simp only [exec, execLdVxK] at h
    split at h
    · exact Effect.wait.of_eq h
    · exact (Effect.key _).of_eq h
  | ldDTVx x =>
    simp only [exec, execLdDTVx] at h
    exact effect_withV h fun _ h => (Effect.setDT _).of_eq h
  | ldSTVx x =>
    simp only [exec, execLdSTVx] at h
    exact effect_withV h fun _ h => (Effect.setST _).of_eq h
  | addI x =>
    simp only [exec, execAddI] at h
    rcases withI_next h with h | h
    · exact .raise h
    exact effect_withV h fun _ h => (Effect.setI _ (.inr (.inl ⟨_, rfl⟩))).of_eq h
  | ldF x =>
    simp only [exec, execLdF] at h
    exact effect_withV h fun _ h => (Effect.setI _ (.inr (.inr ⟨_, rfl⟩))).of_eq h
  | ldB x =>
    simp only [exec, execLdB] at h
    refine effect_withV h fun _ h => ?_
    rcases withI_next h with h | h
    · exact .raise h
    rcases withRange_next h with h | ⟨hr, h⟩
    · exact .raise h
    exact (Effect.digits _ _ (by simp only [digits, List.length_cons, List.length_nil]; omega)).of_eq h
  | ldMemVx x =>
    simp only [exec, execLdMemVx] at h
    rcases withI_next h with h | h
    · exact .raise h
    rcases withVUpTo_next h with h | h
    · exact .raise h
    rcases withRange_next h with h | ⟨hr, h⟩
    · exact .raise h
    refine (Effect.store _ _ ?_).of_eq h
    have := x.isLt
    simp only [List.length_map, List.length_take, List.length_finRange]
    omega
  | ldVxMem x =>
    simp only [exec, execLdVxMem] at h
    rcases withI_next h with h | h
    · exact .raise h
    rcases withRange_next h with h | ⟨-, h⟩
    · exact .raise h
    exact (Effect.load _).of_eq h

end Sys2Proof.Machine
end

