-- ==== Sys2Proof/Laws/PerInstr.lean ====
section
/-! SUPPORT. One lemma per instruction about its syntax: its encoding lies in its row of the opcode table (R112). -/

namespace Sys2Proof.Laws.EncodeRow

open Sys2Proof

/-- The encoded word matches the mask and match of the instruction's row, and the row is in the table. -/
def Statement (i : Instr) : Prop := MatchesRow (encode i) (rowOf i) ∧ rowOf i ∈ opcodeRows

/-- `oaaa`: the op is fixed, whatever the address. -/
theorem addr_op (op : BitVec 4) (a : BitVec 12) : encAddr op a &&& 0xF000#16 = op ++ 0x000#12 := by
  apply BitVec.eq_of_getLsbD_eq
  intro k hk
  simp only [encAddr, BitVec.getLsbD_and, BitVec.getLsbD_append]
  interval_cases k <;> simp

/-- `oxkk`: the op is fixed, whatever the register and byte. -/
theorem xByte_op (op : BitVec 4) (x : Reg) (b : Byte) : encXByte op x b &&& 0xF000#16 = op ++ 0x000#12 := by
  apply BitVec.eq_of_getLsbD_eq
  intro k hk
  simp only [encXByte, BitVec.getLsbD_and, BitVec.getLsbD_append]
  interval_cases k <;> simp

/-- `oxkk`: op and byte are fixed, whatever the register. -/
theorem xByte_opByte (op : BitVec 4) (x : Reg) (b : Byte) : encXByte op x b &&& 0xF0FF#16 = op ++ 0x0#4 ++ b := by
  apply BitVec.eq_of_getLsbD_eq
  intro k hk
  simp only [encXByte, BitVec.getLsbD_and, BitVec.getLsbD_append]
  interval_cases k <;> simp

/-- `oxyn`: the op is fixed, whatever the registers and the nibble. -/
theorem xyn_op (op : BitVec 4) (x y : Reg) (n : BitVec 4) : encXYN op x y n &&& 0xF000#16 = op ++ 0x000#12 := by
  apply BitVec.eq_of_getLsbD_eq
  intro k hk
  simp only [encXYN, BitVec.getLsbD_and, BitVec.getLsbD_append]
  interval_cases k <;> simp

/-- `oxyn`: op and nibble are fixed, whatever the registers. -/
theorem xyn_opN (op : BitVec 4) (x y : Reg) (n : BitVec 4) : encXYN op x y n &&& 0xF00F#16 = op ++ 0x00#8 ++ n := by
  apply BitVec.eq_of_getLsbD_eq
  intro k hk
  simp only [encXYN, BitVec.getLsbD_and, BitVec.getLsbD_append]
  interval_cases k <;> simp

theorem cls : Statement .cls := by unfold Statement; decide

theorem ret : Statement .ret := by unfold Statement; decide

theorem jp (addr : BitVec 12) : Statement (.jp addr) :=
  ⟨(addr_op _ _).trans rfl, by simp [rowOf, opcodeRows]⟩

theorem call (addr : BitVec 12) : Statement (.call addr) :=
  ⟨(addr_op _ _).trans rfl, by simp [rowOf, opcodeRows]⟩

theorem seByte (x : Reg) (byte : Byte) : Statement (.seByte x byte) :=
  ⟨(xByte_op _ _ _).trans rfl, by simp [rowOf, opcodeRows]⟩

theorem sneByte (x : Reg) (byte : Byte) : Statement (.sneByte x byte) :=
  ⟨(xByte_op _ _ _).trans rfl, by simp [rowOf, opcodeRows]⟩

theorem seReg (x : Reg) (y : Reg) : Statement (.seReg x y) :=
  ⟨(xyn_opN _ _ _ _).trans rfl, by simp [rowOf, opcodeRows]⟩

theorem ldByte (x : Reg) (byte : Byte) : Statement (.ldByte x byte) :=
  ⟨(xByte_op _ _ _).trans rfl, by simp [rowOf, opcodeRows]⟩

theorem addByte (x : Reg) (byte : Byte) : Statement (.addByte x byte) :=
  ⟨(xByte_op _ _ _).trans rfl, by simp [rowOf, opcodeRows]⟩

theorem ldReg (x : Reg) (y : Reg) : Statement (.ldReg x y) :=
  ⟨(xyn_opN _ _ _ _).trans rfl, by simp [rowOf, opcodeRows]⟩

theorem orReg (x : Reg) (y : Reg) : Statement (.orReg x y) :=
  ⟨(xyn_opN _ _ _ _).trans rfl, by simp [rowOf, opcodeRows]⟩

theorem andReg (x : Reg) (y : Reg) : Statement (.andReg x y) :=
  ⟨(xyn_opN _ _ _ _).trans rfl, by simp [rowOf, opcodeRows]⟩

theorem xorReg (x : Reg) (y : Reg) : Statement (.xorReg x y) :=
  ⟨(xyn_opN _ _ _ _).trans rfl, by simp [rowOf, opcodeRows]⟩

theorem addReg (x : Reg) (y : Reg) : Statement (.addReg x y) :=
  ⟨(xyn_opN _ _ _ _).trans rfl, by simp [rowOf, opcodeRows]⟩

theorem subReg (x : Reg) (y : Reg) : Statement (.subReg x y) :=
  ⟨(xyn_opN _ _ _ _).trans rfl, by simp [rowOf, opcodeRows]⟩

theorem shr (x : Reg) (y : Reg) : Statement (.shr x y) :=
  ⟨(xyn_opN _ _ _ _).trans rfl, by simp [rowOf, opcodeRows]⟩

theorem subnReg (x : Reg) (y : Reg) : Statement (.subnReg x y) :=
  ⟨(xyn_opN _ _ _ _).trans rfl, by simp [rowOf, opcodeRows]⟩

theorem shl (x : Reg) (y : Reg) : Statement (.shl x y) :=
  ⟨(xyn_opN _ _ _ _).trans rfl, by simp [rowOf, opcodeRows]⟩

theorem sneReg (x : Reg) (y : Reg) : Statement (.sneReg x y) :=
  ⟨(xyn_opN _ _ _ _).trans rfl, by simp [rowOf, opcodeRows]⟩

theorem ldI (addr : BitVec 12) : Statement (.ldI addr) :=
  ⟨(addr_op _ _).trans rfl, by simp [rowOf, opcodeRows]⟩

theorem jpV0 (addr : BitVec 12) : Statement (.jpV0 addr) :=
  ⟨(addr_op _ _).trans rfl, by simp [rowOf, opcodeRows]⟩

theorem rnd (x : Reg) (byte : Byte) : Statement (.rnd x byte) :=
  ⟨(xByte_op _ _ _).trans rfl, by simp [rowOf, opcodeRows]⟩

theorem drw (x : Reg) (y : Reg) (n : Nat) : Statement (.drw x y n) :=
  ⟨(xyn_op _ _ _ _).trans rfl, by simp [rowOf, opcodeRows]⟩

theorem skp (x : Reg) : Statement (.skp x) :=
  ⟨(xByte_opByte _ _ _).trans rfl, by simp [rowOf, opcodeRows]⟩

theorem sknp (x : Reg) : Statement (.sknp x) :=
  ⟨(xByte_opByte _ _ _).trans rfl, by simp [rowOf, opcodeRows]⟩

theorem ldVxDT (x : Reg) : Statement (.ldVxDT x) :=
  ⟨(xByte_opByte _ _ _).trans rfl, by simp [rowOf, opcodeRows]⟩

theorem ldVxK (x : Reg) : Statement (.ldVxK x) :=
  ⟨(xByte_opByte _ _ _).trans rfl, by simp [rowOf, opcodeRows]⟩

theorem ldDTVx (x : Reg) : Statement (.ldDTVx x) :=
  ⟨(xByte_opByte _ _ _).trans rfl, by simp [rowOf, opcodeRows]⟩

theorem ldSTVx (x : Reg) : Statement (.ldSTVx x) :=
  ⟨(xByte_opByte _ _ _).trans rfl, by simp [rowOf, opcodeRows]⟩

theorem addI (x : Reg) : Statement (.addI x) :=
  ⟨(xByte_opByte _ _ _).trans rfl, by simp [rowOf, opcodeRows]⟩

theorem ldF (x : Reg) : Statement (.ldF x) :=
  ⟨(xByte_opByte _ _ _).trans rfl, by simp [rowOf, opcodeRows]⟩

theorem ldB (x : Reg) : Statement (.ldB x) :=
  ⟨(xByte_opByte _ _ _).trans rfl, by simp [rowOf, opcodeRows]⟩

theorem ldMemVx (x : Reg) : Statement (.ldMemVx x) :=
  ⟨(xByte_opByte _ _ _).trans rfl, by simp [rowOf, opcodeRows]⟩

theorem ldVxMem (x : Reg) : Statement (.ldVxMem x) :=
  ⟨(xByte_opByte _ _ _).trans rfl, by simp [rowOf, opcodeRows]⟩

end Sys2Proof.Laws.EncodeRow
end

