-- ==== Sys2Proof/Laws/Scheduler.lean ====
section
/-! SUPPORT. The cycle and the pass: what each can answer, said once, and the clock conditions on rationals. -/

namespace Sys2Proof.Machine

variable {s t : State}

/-! ### Clock conditions -/

/-- The later of two times is their maximum. -/
theorem laterTime_val (a b : Time) : (laterTime a b).val = max a.val b.val := by
  unfold laterTime
  split
  · exact (max_eq_right ‹_›).symm
  · exact (max_eq_left (le_of_not_ge ‹_›)).symm

/-- A reading that is not earlier is taken as it is (R299). -/
theorem laterTime_of_le {a b : Time} (h : a.val ≤ b.val) : laterTime a b = b := if_pos h

@[simp] theorem laterTime_self (a : Time) : laterTime a a = a := laterTime_of_le le_rfl

/-- The clock condition is `issued ≤ (now − start) × rate` on rationals (R291, R293). -/
theorem clockDue_iff {issued : Nat} {rate now start : ℚ} :
    clockDue issued rate now start = true ↔ (issued : ℚ) ≤ (now - start) * rate := by
  have hn : (0 : ℚ) < now.den := by exact_mod_cast now.den_pos
  have hs : (0 : ℚ) < start.den := by exact_mod_cast start.den_pos
  have hr : (0 : ℚ) < rate.den := by exact_mod_cast rate.den_pos
  have e : (now - start) * rate =
      ((now.num * start.den - start.num * now.den) * rate.num : ℚ) / (now.den * start.den * rate.den) := by
    conv_lhs => rw [← Rat.num_div_den now, ← Rat.num_div_den start, ← Rat.num_div_den rate]
    field_simp
  simp only [clockDue, decide_eq_true_eq]
  rw [e, le_div_iff₀ (by positivity)]
  exact_mod_cast Iff.rfl

/-- A clock that starts now is due with nothing issued (R295). -/
theorem clockDue_zero {rate now : ℚ} : clockDue 0 rate now now = true := by
  rw [clockDue_iff]; simp

/-! ### The cycle -/

/-- What a cycle that answers a next state has done (R140). -/
inductive CycleEffect (s : State) : State → Prop where
  | faulted (h : s.fault ≠ none) : CycleEffect s (s.signal .failure)
  | badFetch (h : s.fault = none) (hw : s.fetchWord? = none) : CycleEffect s (s.fetchFault.signal .failure)
  | undefined {w} (h : s.fault = none) (hw : s.fetchWord? = some w) (hd : decodeWord w = none) :
      CycleEffect s ((s.skipUndefined w).signal .failure)
  | ran {w i u} (h : s.fault = none) (hw : s.fetchWord? = some w) (hd : decodeWord w = some i)
      (hx : exec i s = .next u) : CycleEffect s u.signalDone

theorem cycle_effect (h : cycle s = .next t) : CycleEffect s t := by
  unfold cycle at h
  split at h
  · rename_i hf
    cases h
    exact .faulted (by simpa [Option.isSome_iff_ne_none] using hf)
  · rename_i hf
    have hf : s.fault = none := by simpa using hf
    split at h
    · cases h
      exact .badFetch hf ‹_›
    · split at h
      · cases h
        exact .undefined hf ‹_› ‹_›
      · rw [mapNext_eq_next] at h
        obtain ⟨u, hu, rfl⟩ := h
        exact .ran hf ‹_› ‹_› hu

/-- What a cycle keeps, and that it drives its signal. -/
theorem CycleEffect.keeps (h : CycleEffect s t) :
    t.keys = s.keys ∧ t.mode = s.mode ∧ t.cyclesIssued = s.cyclesIssued ∧ t.clocksIssued = s.clocksIssued ∧
    t.start = s.start ∧ t.cfg = s.cfg ∧ t.now = s.now ∧ t.render = s.render ∧ t.inputs = s.inputs ∧
    t.passes = s.passes ∧ t.cycleOk ≠ none := by
  cases h with
  | ran _ _ _ hx =>
    cases exec_effect hx with
    | raise h => obtain ⟨c, rfl, -⟩ := h; simp [State.signalDone]
    | _ => simp [State.signalDone]
  | _ => simp [State.fetchFault, State.skipUndefined]

/-- A cycle changes DT only by LD DT,Vx, and ST only by LD ST,Vx. -/
theorem CycleEffect.timers (h : CycleEffect s t) :
    (t.dt = s.dt ∨ ∃ w x, s.fetchWord? = some w ∧ decodeWord w = some (.ldDTVx x)) ∧
    (t.st = s.st ∨ ∃ w x, s.fetchWord? = some w ∧ decodeWord w = some (.ldSTVx x)) := by
  cases h with
  | ran _ hw hd hx =>
    cases exec_effect hx with
    | raise h => obtain ⟨c, rfl, -⟩ := h; simp
    | setDT => exact ⟨.inr ⟨_, _, hw, hd⟩, by simp⟩
    | setST => exact ⟨by simp, .inr ⟨_, _, hw, hd⟩⟩
    | _ => simp
  | _ => simp [State.fetchFault, State.skipUndefined]

/-! ### The pass -/

theorem cycleClock_next {advance : Bool} (h : cycleClock advance s = .next t) :
    (s.cycleDue advance = false ∧ t = s) ∨
    (s.cycleDue advance = true ∧ ∃ u, CycleEffect s u ∧ t = u.countCycle) := by
  unfold cycleClock at h
  cases hd : s.cycleDue advance <;> rw [hd] at h
  · cases h
    exact .inl ⟨rfl, rfl⟩
  · rw [if_pos rfl, mapNext_eq_next] at h
    obtain ⟨u, hu, rfl⟩ := h
    exact .inr ⟨rfl, u, cycle_effect hu, rfl⟩

/-- The state a pass's clocks start from: the ports sampled, the mode event taken (R290). -/
def State.begun (s : State) (p : PassInput) : State := (s.sample p).takeEvent p.event

/-- What a pass that answers a next state has done: the cycle clock on one side of the timer clock. -/
theorem runPass_next {p : PassInput} (h : runPass p s = .next t) :
    (p.timerFirst = true ∧ cycleClock p.advance (s.begun p).timerClock = .next t) ∨
    (p.timerFirst = false ∧ ∃ u, cycleClock p.advance (s.begun p) = .next u ∧ t = u.timerClock) := by
  unfold runPass runClocks at h
  cases ht : p.timerFirst <;> rw [ht] at h
  · rw [if_neg (by simp), mapNext_eq_next] at h
    obtain ⟨u, hu, rfl⟩ := h
    exact .inr ⟨rfl, u, hu, rfl⟩
  · exact .inl ⟨rfl, h⟩

/-- A step is the pass of its next input. -/
theorem step_eq_runPass : step s = runPass s.nextInput s.popInput := rfl

/-! ### The mode and the counters through a pass -/

theorem takeEvent_mode (e : ModeEvent) : (s.takeEvent e).mode = targetMode s.mode e := by
  unfold State.takeEvent
  split
  · exact Eq.symm ‹_›
  · rfl

theorem takeEvent_same {e : ModeEvent} (h : targetMode s.mode e = s.mode) : s.takeEvent e = s := by
  simp [State.takeEvent, h]

theorem takeEvent_change {e : ModeEvent} (h : targetMode s.mode e ≠ s.mode) :
    s.takeEvent e = { s with mode := targetMode s.mode e, cyclesIssued := 0, clocksIssued := 0, start := s.now } := by
  simp [State.takeEvent, h]

theorem timerClock_cases : (s.timerDue = true ∧ s.timerClock = s.fireTimer) ∨
    (s.timerDue = false ∧ s.timerClock = s) := by
  unfold State.timerClock
  cases s.timerDue <;> simp

theorem fireTimer_dt : s.fireTimer.dt = if s.mode = .halted then s.dt else countDown s.dt := by
  unfold State.fireTimer; dsimp only; split <;> rfl

theorem fireTimer_st : s.fireTimer.st = if s.mode = .halted then s.st else countDown s.st := by
  unfold State.fireTimer; dsimp only; split <;> rfl

@[simp] theorem fireTimer_render : s.fireTimer.render = true := rfl

@[simp] theorem fireTimer_clocksIssued : s.fireTimer.clocksIssued = s.clocksIssued + 1 := by
  unfold State.fireTimer; dsimp only; split <;> rfl

/-- DT after the timer clock: one less, or 0 from 0, when it fires outside Halted (R287, R293, R294). -/
theorem timerClock_dt_toNat : s.timerClock.dt.toNat =
    if s.timerDue = true ∧ s.mode ≠ .halted then s.dt.toNat - 1 else s.dt.toNat := by
  rcases timerClock_cases (s := s) with ⟨h, e⟩ | ⟨h, e⟩ <;> rw [e] <;> simp only [h, fireTimer_dt] <;>
    by_cases hm : s.mode = .halted <;> simp [hm, countDown_toNat]

/-- ST after the timer clock: as DT. -/
theorem timerClock_st_toNat : s.timerClock.st.toNat =
    if s.timerDue = true ∧ s.mode ≠ .halted then s.st.toNat - 1 else s.st.toNat := by
  rcases timerClock_cases (s := s) with ⟨h, e⟩ | ⟨h, e⟩ <;> rw [e] <;> simp only [h, fireTimer_st] <;>
    by_cases hm : s.mode = .halted <;> simp [hm, countDown_toNat]

/-! ### The start of a pass -/

/-- The start of a pass keeps the fetched word. -/
theorem fetchWord?_begun (p : PassInput) : (s.begun p).fetchWord? = s.fetchWord? := by
  apply State.fetchWord?_congr <;> (unfold State.begun State.takeEvent; split <;> rfl)

/-- The timer clock keeps the fetched word. -/
theorem fetchWord?_timerClock : s.timerClock.fetchWord? = s.fetchWord? := by
  apply State.fetchWord?_congr <;> simp

/-- The start of a pass changes nothing an instruction acts on. -/
theorem begun_same (p : PassInput) (q : StatePart) : Same s (s.begun p) q := by
  unfold State.begun State.takeEvent
  split <;> cases q <;> simp [Same, State.readMem]

/-- The timer clock does not decide whether a cycle is due. -/
theorem cycleDue_timerClock (b : Bool) : s.timerClock.cycleDue b = s.cycleDue b := by
  unfold State.cycleDue; simp

/-- What a step has done: the timer clock alone, or with one cycle before or after it. -/
theorem step_next (h : step s = .next t) :
    let b := s.popInput.begun s.nextInput
    (b.cycleDue s.nextInput.advance = false ∧ t = b.timerClock) ∨
    (b.cycleDue s.nextInput.advance = true ∧
      ((∃ u, CycleEffect b.timerClock u ∧ t = u.countCycle) ∨
        ∃ u, CycleEffect b u ∧ t = u.countCycle.timerClock)) := by
  rcases runPass_next (step_eq_runPass ▸ h) with ⟨-, h⟩ | ⟨-, u, hu, rfl⟩
  · rcases cycleClock_next h with ⟨hd, rfl⟩ | ⟨hd, u, hu, rfl⟩
    · exact .inl ⟨cycleDue_timerClock _ ▸ hd, rfl⟩
    · exact .inr ⟨cycleDue_timerClock _ ▸ hd, .inl ⟨u, hu, rfl⟩⟩
  · rcases cycleClock_next hu with ⟨hd, rfl⟩ | ⟨hd, v, hv, rfl⟩
    · exact .inl ⟨hd, rfl⟩
    · exact .inr ⟨hd, .inr ⟨v, hv, rfl⟩⟩

end Sys2Proof.Machine
end

