-- ==== Sys2Proof/Tests/Slice0.lean ====
section
/-! SUPPORT. The model's own tests. Words are written out from the patterns of 30_encoding.md R112, and the expected
results are the vectors of 95_test_vectors.md, named in each comment; a test is one step. The last part gives, for each
statement with hypotheses, concrete states that meet them, at the boundaries of each clause. -/

open Sys2Proof Sys2Proof.Machine

namespace Sys2Proof.Tests

/-! ### Helpers -/

/-- The parameters of the vectors: `vf_reset` and `memory` false, `Zero` (95_test_vectors.md, conventions). -/
def plain : Config := { Config.standard with quirks := { classicQuirks with vfReset := false, memory := false } }

/-- Reset under `Zero` with both quirks off. -/
def z : State := State.resetWith plain

/-- Reset under `Zero` with the classic quirks: `vf_reset` and `memory` true. -/
def q : State := State.reset

/-- Reset under `Unwritten`. -/
def u : State := State.resetWith { plain with unlistedReset := .unwritten }

/-- One cycle with the word stored at pc. -/
def run (w : Word) (s : State) : State :=
  match cycle (s.writeBytes s.pc.toNat (bytesOfWord w)) with
  | .next t => t
  | _ => s

/-- One pass. -/
def passOf (p : PassInput) (s : State) : State :=
  match runPass p s with
  | .next t => t
  | _ => s

/-- A whole number of seconds. -/
def sec (n : Nat) : Time := ⟨n, Nat.cast_nonneg n⟩

/-- A pass input with nothing pressed and no advance. -/
def tick (now : Time) (e : ModeEvent) : PassInput :=
  { now := now, keysIn := 0, event := e, advance := false, timerFirst := true }

/-- The fault register of a state holds this cause, raised at this pc, and pc is still there. -/
def faulted (s : State) (c : Cause) (pc : Word) : Bool :=
  s.fault.map (fun f => (f.cause, f.pcF)) = some (c, pc) ∧ s.pc = pc ∧ s.cycleOk = some .failure

/-! ### WellFormed -/

theorem test_wellFormed_refuses_drw_16 : ¬ WellFormed (.drw 0 0 16) := by decide
theorem test_wellFormed_accepts_drw_15 : WellFormed (.drw 0 0 15) := by decide

/-! ### Decoding: every constructor, the words written out from R112 -/

theorem test_decode_group0 :
    decodeWord 0b0000000011100000#16 = some .cls ∧ decodeWord 0b0000000011101110#16 = some .ret := by decide

theorem test_decode_addr :
    decodeWord 0b0001101010111100#16 = some (.jp 0xABC#12) ∧
    decodeWord 0b0010101010111100#16 = some (.call 0xABC#12) ∧
    decodeWord 0b1010101010111100#16 = some (.ldI 0xABC#12) ∧
    decodeWord 0b1011101010111100#16 = some (.jpV0 0xABC#12) := by decide

theorem test_decode_xByte :
    decodeWord 0b0011101001111111#16 = some (.seByte 10 0x7F#8) ∧
    decodeWord 0b0100101001111111#16 = some (.sneByte 10 0x7F#8) ∧
    decodeWord 0b0110101001111111#16 = some (.ldByte 10 0x7F#8) ∧
    decodeWord 0b0111101001111111#16 = some (.addByte 10 0x7F#8) ∧
    decodeWord 0b1100101001111111#16 = some (.rnd 10 0x7F#8) := by decide

theorem test_decode_xy :
    decodeWord 0b0101101010110000#16 = some (.seReg 10 11) ∧
    decodeWord 0b1001101010110000#16 = some (.sneReg 10 11) ∧
    decodeWord 0b1101101010110101#16 = some (.drw 10 11 5) := by decide

theorem test_decode_group8 :
    decodeWord 0b1000101010110000#16 = some (.ldReg 10 11) ∧
    decodeWord 0b1000101010110001#16 = some (.orReg 10 11) ∧
    decodeWord 0b1000101010110010#16 = some (.andReg 10 11) ∧
    decodeWord 0b1000101010110011#16 = some (.xorReg 10 11) ∧
    decodeWord 0b1000101010110100#16 = some (.addReg 10 11) ∧
    decodeWord 0b1000101010110101#16 = some (.subReg 10 11) ∧
    decodeWord 0b1000101010110110#16 = some (.shr 10 11) ∧
    decodeWord 0b1000101010110111#16 = some (.subnReg 10 11) ∧
    decodeWord 0b1000101010111110#16 = some (.shl 10 11) := by decide

theorem test_decode_groupE :
    decodeWord 0b1110101010011110#16 = some (.skp 10) ∧ decodeWord 0b1110101010100001#16 = some (.sknp 10) := by
  decide

theorem test_decode_groupF :
    decodeWord 0b1111101000000111#16 = some (.ldVxDT 10) ∧
    decodeWord 0b1111101000001010#16 = some (.ldVxK 10) ∧
    decodeWord 0b1111101000010101#16 = some (.ldDTVx 10) ∧
    decodeWord 0b1111101000011000#16 = some (.ldSTVx 10) ∧
    decodeWord 0b1111101000011110#16 = some (.addI 10) ∧
    decodeWord 0b1111101000101001#16 = some (.ldF 10) ∧
    decodeWord 0b1111101000110011#16 = some (.ldB 10) ∧
    decodeWord 0b1111101001010101#16 = some (.ldMemVx 10) ∧
    decodeWord 0b1111101001100101#16 = some (.ldVxMem 10) := by decide

/-- The undefined words of 95_test_vectors.md section 3, and the all-zero word (R105). -/
theorem test_decode_undefined :
    decodeWord 0x00E1#16 = none ∧ decodeWord 0x0123#16 = none ∧ decodeWord 0x5AB1#16 = none ∧
    decodeWord 0x8AB8#16 = none ∧ decodeWord 0xEA9F#16 = none ∧ decodeWord 0xFA08#16 = none ∧
    decodeWord 0xFFFF#16 = none ∧ decodeWord 0x0000#16 = none := by decide

theorem test_decode_bytes_truncated : decodeBytes [0x6A#8] = .error .truncated := by decide

/-- Row 34's word from the table, through the bytes. -/
theorem test_decodeTableWord : decodeTableWord 16 0xFA65 = some (.ldVxMem 10) := by decide

/-! ### Register file and ALU (95_test_vectors.md 2.1) -/

theorem test_A1 : (run 0x6A3C#16 z).getV 10 = 0x3C := by decide
theorem test_A2 : (run 0x8120#16 (z.setV 2 0x55)).getV 1 = 0x55 := by decide
theorem test_A3 : let t := run 0x7001#16 ((z.setV 0 0xFF).setV 15 7)
    t.getV 0 = 0 ∧ t.getV 15 = 7 := by decide
theorem test_S1 : let t := run 0x8014#16 ((z.setV 0 0xFF).setV 1 2)
    t.getV 0 = 1 ∧ t.getV 15 = 1 := by decide
theorem test_A5 : (run 0x8F14#16 ((z.setV 15 0x10).setV 1 0xF5)).getV 15 = 1 := by decide
theorem test_A7 : let t := run 0x8011#16 (((z.setV 0 0x0F).setV 1 0xF0).setV 15 7)
    t.getV 0 = 0xFF ∧ t.getV 15 = 7 := by decide
theorem test_A9 : (run 0x8F11#16 ((q.setV 15 0x0F).setV 1 0xF0)).getV 15 = 0 := by decide
theorem test_A11 : (run 0x8012#16 ((z.setV 0 0x3C).setV 1 0x0F)).getV 0 = 0x0C := by decide
theorem test_A12 : (run 0x8003#16 (z.setV 0 0xA5)).getV 0 = 0 := by decide
theorem test_S2 : let t := run 0x8015#16 ((z.setV 0 1).setV 1 2)
    t.getV 0 = 0xFF ∧ t.getV 15 = 0 := by decide
theorem test_A13 : let t := run 0x8005#16 (z.setV 0 5)
    t.getV 0 = 0 ∧ t.getV 15 = 1 := by decide
theorem test_A15 : let t := run 0x8017#16 ((z.setV 0 2).setV 1 5)
    t.getV 0 = 3 ∧ t.getV 15 = 1 := by decide
theorem test_A16 : let t := run 0x8017#16 ((z.setV 0 5).setV 1 2)
    t.getV 0 = 0xFD ∧ t.getV 15 = 0 := by decide
theorem test_A18 : let t := run 0x8016#16 ((z.setV 0 2).setV 1 0xFF)
    t.getV 0 = 1 ∧ t.getV 15 = 0 := by decide
theorem test_A19 : (run 0x8F06#16 (z.setV 15 2)).getV 15 = 0 := by decide
theorem test_A20 : let t := run 0x800E#16 (z.setV 0 0x81)
    t.getV 0 = 2 ∧ t.getV 15 = 1 := by decide
theorem test_A22 : (run 0x8F0E#16 (z.setV 15 0x81)).getV 15 = 1 := by decide

/-- A24: a mask of 0 gives 0, whatever the draw. -/
theorem test_A24 : ∃ t, exec (.rnd 0 0) z = .next t ∧ t.getV 0 = 0 :=
  ⟨_, rfl, (State.getV_setV _ 0 0 _).trans (by simp [alu])⟩

/-! ### Control flow (2.2) -/

theorem test_B1 : (run 0x1234#16 z).pc = 0x234 := by decide
theorem test_B2 : let t := run 0x2210#16 (z.setPc 0x204)
    t.sp = 1 ∧ t.stack[1] = 0x206 ∧ t.pc = 0x210 := by decide
theorem test_B3 : let t := run 0x00EE#16 (z.push 0x206)
    t.pc = 0x206 ∧ t.sp = 0 := by decide
theorem test_B4 : faulted (run 0x2210#16 { z with sp := 15 }) .stackOverflow 0x200 := by decide
theorem test_B5 : faulted (run 0x00EE#16 z) .stackUnderflow 0x200 := by decide
theorem test_B6_B7 : (run 0x3312#16 (z.setV 3 0x12)).pc = 0x204 ∧ (run 0x3313#16 (z.setV 3 0x12)).pc = 0x202 := by
  decide
theorem test_B8 : (run 0x4001#16 z).pc = 0x204 := by decide
theorem test_B9 : (run 0x5120#16 ((z.setV 1 7).setV 2 7)).pc = 0x204 := by decide
theorem test_B10 : (run 0x9110#16 z).pc = 0x202 := by decide
theorem test_B11 : let t := run 0x5121#16 z
    t.events = [.undefinedOpcode 0x200 0x5121] ∧ t.pc = 0x202 ∧ t.cycleOk = some .failure ∧ t.fault = none := by
  decide
theorem test_B12 : (run 0xB300#16 (z.setV 0 0x10)).pc = 0x310 := by decide
theorem test_B13 : (run 0xBFFF#16 (z.setV 0 0xFF)).pc = 0x10FE := by decide
theorem test_B13_next : faulted (run 0x0000#16 (z.setPc 0x10FE)) (.memoryOutOfRange 0x10FE) 0x10FE := by
  decide
theorem test_B14_next : faulted (run 0x0000#16 (z.setPc 0xFFE)) (.memoryOutOfRange 0xFFF) 0xFFE := by decide
theorem test_B15 : (run 0x3000#16 (z.setPc 0xFFA)).pc = 0x000 := by decide
theorem test_B17 : let t := run 0x6042#16 (z.setPc 0xFFD)
    t.getV 0 = 0x42 ∧ t.pc = 0x001 := by decide

/-! ### Address register and memory (2.3) -/

theorem test_C1 : (run 0xA300#16 z).i = 0x0300 := by decide
theorem test_C2 : let t := run 0xF01E#16 (((z.setI 0x0FFF).setV 0 1).setV 15 7)
    t.i = 0x1000 ∧ t.getV 15 = 7 := by decide
theorem test_C3 : (run 0xF01E#16 ((z.setI 0xFFFF).setV 0 2)).i = 0x0001 := by decide
theorem test_C4 : (run 0xF029#16 (z.setV 0 0x0A)).i = 0x082 := by decide
theorem test_C5 : (run 0xF029#16 (z.setV 0 0xFF)).i = 0x54B := by decide
theorem test_S6 : let t := run 0xF033#16 ((z.setV 0 0xFF).setI 0x300)
    t.readMem 0x300 = 2 ∧ t.readMem 0x301 = 5 ∧ t.readMem 0x302 = 5 := by decide
theorem test_C8 : let t := run 0xF033#16 ((z.setV 0 0xFF).setI 0xFFD)
    faulted t (.memoryOutOfRange 0xFFF) 0x200 ∧ t.readMem 0xFFD = 0 ∧ t.readMem 0xFFE = 0 := by decide
theorem test_C9 : let t := run 0xF155#16 (((z.setV 0 1).setV 1 2).setI 0x300)
    t.readMem 0x300 = 1 ∧ t.readMem 0x301 = 2 ∧ t.i = 0x300 := by decide
theorem test_C10 : (run 0xF155#16 (((q.setV 0 1).setV 1 2).setI 0x300)).i = 0x302 := by decide
theorem test_C11 : let t := run 0xF065#16 ((q.writeMem 0xFFE 0x42).setI 0xFFE)
    t.getV 0 = 0x42 ∧ t.i = 0xFFF := by decide
theorem test_C12 : let t := run 0xF165#16 ((z.setV 0 9).setI 0xFFE)
    faulted t (.memoryOutOfRange 0xFFF) 0x200 ∧ t.getV 0 = 9 := by decide

/-! ### Display (2.4): `on` is given by whole rows -/

theorem test_D1 : (run 0x00E0#16 { z with disp := Vector.replicate 32 (BitVec.allOnes 64) }).disp
    = Vector.replicate 32 0#64 := by decide
theorem test_D2 : let t := run 0xD012#16 ((((z.setV 0 67).setV 1 33).setI 0x300).writeBytes 0x300 [0x80, 0x01])
    t.disp = ((Vector.replicate 32 0#64).set 1 (1#64 <<< (63 - 3))).set 2 (1#64 <<< (63 - 10)) ∧ t.getV 15 = 0 := by
  decide
theorem test_D4 : let t := run 0xD013#16 ((((z.setV 0 62).setV 1 30).setI 0x300).writeBytes 0x300 [0xFF, 0xC3, 0xFF])
    t.disp = ((Vector.replicate 32 0#64).set 30 3#64).set 31 3#64 ∧ t.getV 15 = 0 := by decide

/-! ### Timers and keypad (2.5) -/

theorem test_E1 : (run 0xF107#16 (z.setDT 0x3C)).getV 1 = 0x3C := by decide
theorem test_E2 : (run 0xF015#16 (z.setV 0 5)).dt = 5 := by decide
theorem test_E3 : (run 0xF218#16 (z.setV 2 0x10)).st = 0x10 := by decide
theorem test_E5 : let t := (({ z with dt := 0x3C, st := 0x02 } : State)).tick
    t.dt = 0x3B ∧ t.st = 0x01 := by decide
theorem test_E7 : let t := run 0xF30A#16 { z with keys := 0x0020 }
    t.getV 3 = 5 ∧ t.pc = 0x202 := by decide
theorem test_E9 : let t := run 0xF30A#16 (z.setPc 0xFFC)
    t.pc = 0xFFC ∧ t.cycleOk = some .success := by decide
theorem test_E10 : (run 0xE09E#16 { z.setV 0 0x0A with keys := 0x0400 }).pc = 0x204 := by decide
theorem test_E11 : (run 0xE0A1#16 { z.setV 0 0x0A with keys := 0x0400 }).pc = 0x202 := by decide
theorem test_E12 : (run 0xE0A1#16 (z.setV 0 0x0A)).pc = 0x204 := by decide
theorem test_E13 : faulted (run 0xE09E#16 (z.setV 0 0x10)) (.keyIndexOutOfRange 0x10) 0x200 := by decide

/-! ### Faults and unwritten state (2.6, D9) -/

theorem test_F1_F4_F5_D9 :
    faulted (run 0x8014#16 u) (.unwrittenRead (.v 0)) 0x200 ∧
    faulted (run 0x2300#16 { u with sp := 15 }) .stackOverflow 0x200 ∧
    faulted (run 0xF033#16 (u.setI 0xFFE)) (.unwrittenRead (.v 0)) 0x200 ∧
    faulted (run 0xD011#16 (((u.setV 0 0).setV 1 0).setI 0x050)) (.unwrittenRead (.disp 0 0)) 0x200 := by decide

/-! ### Scheduler (2.7) -/

theorem test_G1 : let t := passOf (tick (sec 5) .run) z
    t.mode = .running ∧ t.start = sec 5 ∧ t.render = true ∧ t.cyclesIssued = 1 ∧ t.clocksIssued = 1 := by decide
/-- G2, the pass at 1/120 after one at 0: no render. -/
theorem test_G2 : let t := passOf (tick ⟨1/120, by norm_num⟩ .none) { z with clocksIssued := 1 }
    t.render = false ∧ t.clocksIssued = 1 ∧ t.pc = 0x200 ∧ t.cycleOk = none := by decide +kernel
theorem test_G4 : let t := passOf { tick (sec 7) .stepMode with advance := true } { z with mode := .running, cyclesIssued := 9 }
    t.mode = .stepping ∧ t.start = sec 7 ∧ t.cyclesIssued = 1 ∧ t.clocksIssued = 1 := by decide
/-- `now` does not decrease (R67, R299): a reading of 3 after one of 5 is taken as 5 again, one of 8 as 8. -/
theorem test_now_does_not_decrease :
    (passOf (tick (sec 3) .none) { z with now := sec 5 }).now = sec 5 ∧
    (passOf (tick (sec 8) .none) { z with now := sec 5 }).now = sec 8 := by decide
/-- G7: one second late, one cycle and one tick only. -/
theorem test_G7 : let t := passOf (tick (sec 1) .none) { z with mode := .running, cyclesIssued := 1, clocksIssued := 1, dt := 9 }
    t.cyclesIssued = 2 ∧ t.clocksIssued = 2 ∧ t.dt = 8 := by decide

/-- Reset memory: the font's first and last byte and a byte after it (R83, R84). -/
theorem test_reset_memory : q.readMem 0x050 = 0xF0 ∧ q.readMem 0x09F = 0x80 ∧ q.readMem 0x0A0 = 0x00 := by
  decide

/-- A write of what an unlisted address reads as lists nothing (Memory.wf). -/
theorem test_memory_canonical : ((z.writeMem 0x050 7).writeMem 0x050 0xF0).mem = [] := by decide

/-- withFetchWord: the very next step runs the word, and the pass it queues is used up (log 20). -/
theorem test_withFetchWord : ∃ t, step (State.reset.withFetchWord 16 0x6A3C) = .next t ∧ t.getV 10 = 0x3C ∧
    t.pc = 0x202 ∧ t.inputs = [] := ⟨_, rfl, by decide⟩

/-! ### Witnesses: states that meet the hypotheses of the statements -/

/-- `z` with the next pass listed. -/
def next (p : PassInput) (s : State) : State := { s with inputs := [p] }

/-- `z` with this word at pc. -/
def fetching (w : Word) : State := z.writeBytes 0x200 (bytesOfWord w)

theorem witness_DecodeOfEncodeIsIdentity : WellFormed (.drw 15 0 15) ∧ WellFormed (.drw 0 15 0) := by decide

theorem witness_EncodeOfDecodeIsIdentity : decodeWord 0xDF0F#16 = some (.drw 15 0 15) := by decide

theorem witness_DecoderSelectsUniqueRow :
    decodeWord 0x8AB6#16 = some (.shr 10 11) ∧ MatchesRow 0x8AB6#16 (0xF00F, 0x8006) ∧
    (0xF00F, 0x8006) ∈ opcodeRows := by decide

theorem witness_DecodeBytesReadsBigEndianWord : decodeWord 0xFA65#16 = some (.ldVxMem 10) := by decide

/-- The cycle clock first in Stepping; the timer clock first in Running. -/
theorem witness_StepRunsDecodedInstruction :
    (let s := z.withFetchWord 16 0x6A3C
     s.fault = none ∧ s.fetchWord? = some 0x6A3C#16 ∧ decodeWord 0x6A3C#16 = some (.ldByte 10 0x3C) ∧
     s.nextInput.timerFirst = false ∧
     ((s.popInput.sample s.nextInput).takeEvent s.nextInput.event).cycleDue s.nextInput.advance = true) ∧
    (let s := next (tick (sec 0) .run) (fetching 0x6A3C#16)
     s.fault = none ∧ s.fetchWord? = some 0x6A3C#16 ∧ s.nextInput.timerFirst = true ∧
     ((s.popInput.sample s.nextInput).takeEvent s.nextInput.event).timerClock.cycleDue s.nextInput.advance = true) := by
  decide

theorem witness_FetchReadsBigEndianWordInRange :
    (z.setPc 0xFFD).fetchWord? = some 0x0000#16 ∧ (z.setPc 0xFFE).fetchWord? = none := by decide

theorem witness_FetchOutOfRangeFaults :
    z.fault = none ∧ 0xFFE ≤ (z.setPc 0x0FFE#16).pc.toNat ∧ 0xFFE ≤ (z.setPc 0x10FE#16).pc.toNat := by decide

theorem witness_UndefinedWordIsReportedNoOp :
    z.fault = none ∧ z.fetchWord? = some 0x0000#16 ∧ decodeWord 0x0000#16 = none := by decide

theorem witness_FaultedBlockExecutesNothing : (z.raise .stackOverflow).fault ≠ none := by decide

/-- One cycle that succeeds and one that fails. -/
theorem witness_CycleSignalsSuccess :
    (∃ t, cycle (fetching 0x6A3C#16) = .next t ∧ t.cycleOk = some .success) ∧
    ∃ t, cycle z = .next t ∧ t.cycleOk = some .failure :=
  ⟨⟨_, rfl, by decide⟩, ⟨_, rfl, by decide⟩⟩

theorem witness_AdvanceAddsTwoAndWraps :
    (0x0FFB#16).toNat ≤ 0xFFB ∧ (0x0FFC#16).toNat = 0xFFC ∧ (0x0FFD#16).toNat = 0xFFD ∧
    (0x0FFD#16).toNat ≤ 0xFFD := by decide

/-- For RegisterLoads, AddImmediateWritesNoFlag, ShiftsSetBitShiftedOut and TimerLoads: a written register, VF too. -/
theorem witness_RegisterLoads :
    (u.setV 3 0xFF).viewV 3 = some 0xFF ∧ (u.setV 15 0x81).viewV 15 = some 0x81 := by decide

/-- For AddRegistersSetsCarry, LogicInstructions, SubtractionsSetNoBorrow and SkipInstructions: two written registers,
VF among them, with and without the quirk. -/
theorem witness_LogicInstructions :
    (((u.setV 3 0xFF).setV 15 0x01).viewV 3 = some 0xFF ∧ ((u.setV 3 0xFF).setV 15 0x01).viewV 15 = some 0x01 ∧
      ((u.setV 3 0xFF).setV 15 0x01).cfg.quirks.vfReset = false) ∧
    (q.viewV 3 = some 0 ∧ q.viewV 15 = some 0 ∧ q.cfg.quirks.vfReset = true) := by decide

theorem witness_JumpsWriteProgramCounterOnly : (z.setV 0 0xFF).viewV 0 = some 0xFF ∧ u.viewV 0 = none := by decide

/-- For CallPushesReturnAddress and CallThenReturnRestores. -/
theorem witness_CallPushesReturnAddress : ({ z with sp := 14 } : State).sp.val < 15 ∧ z.sp.val ≤ 14 := by decide

theorem witness_ReturnPopsReturnAddress :
    (0 < (z.push 0x206).sp.val ∧ (z.push 0x206).viewStack (z.push 0x206).sp = some 0x206) ∧
    (let s := ({ z with sp := 14 } : State).push 0x206
     0 < s.sp.val ∧ s.viewStack s.sp = some 0x206) := by decide

/-- For StackPointerMovesByOne, InstructionsKeepPlatform and WritersOfEachStore: instructions that complete. -/
theorem witness_StackPointerMovesByOne :
    (∃ t, exec (.call 0x300) z = .next t ∧ t.sp = 1) ∧ ∃ t, exec .ret (z.push 0x206) = .next t ∧ t.sp = 0 :=
  ⟨⟨_, rfl, by decide⟩, ⟨_, rfl, by decide⟩⟩

theorem witness_AddressRegisterLoads :
    (let s := (u.setI 0xFFFF).setV 0 0xFF
     s.viewI = some 0xFFFF ∧ s.viewV 0 = some 0xFF) := by decide

theorem witness_DecimalDigitsAreStored :
    (let s := (u.setI 0xFFC).setV 0 0xFF
     s.viewV 0 = some 0xFF ∧ s.viewI = some 0xFFC ∧ InRange (0xFFC#16).toNat 3) := by
  unfold InRange; decide

/-- The last place all 16 registers fit, with and without the quirk. -/
theorem witness_RegistersAreStored :
    (z.setI 0xFEF).viewI = some 0xFEF ∧ (∀ k : Reg, k ≤ 15 → (z.setI 0xFEF).vUnwritten[k] = false) ∧
    InRange (0xFEF#16).toNat ((15 : Reg).val + 1) ∧ z.cfg.quirks.memory = false ∧
    (q.setI 0xFEF).viewI = some 0xFEF ∧ (∀ k : Reg, k ≤ 15 → (q.setI 0xFEF).vUnwritten[k] = false) ∧
    q.cfg.quirks.memory = true := by
  unfold InRange; decide

/-- The registers need not be written. -/
theorem witness_RegistersAreLoaded :
    (u.setI 0xFEF).viewI = some 0xFEF ∧ InRange (0xFEF#16).toNat ((15 : Reg).val + 1) := by
  unfold InRange; decide

/-- The last place the store fits, without the quirk and with it, and the last one where the load after it fits too. -/
theorem witness_StoreThenLoadRoundTrip :
    ((z.setI 0xFEF).viewI = some 0xFEF ∧ (∀ k : Reg, k ≤ 15 → (z.setI 0xFEF).vUnwritten[k] = false) ∧
      InRange (0xFEF#16).toNat ((15 : Reg).val + 1) ∧ ¬ InRange (0xFEF#16).toNat (2 * ((15 : Reg).val + 1)) ∧
      z.cfg.quirks.memory = false) ∧
    ((q.setI 0xFEF).viewI = some 0xFEF ∧ (∀ k : Reg, k ≤ 15 → (q.setI 0xFEF).vUnwritten[k] = false)) ∧
    ((q.setI 0xFDF).viewI = some 0xFDF ∧ (∀ k : Reg, k ≤ 15 → (q.setI 0xFDF).vUnwritten[k] = false) ∧
      InRange (0xFDF#16).toNat ((15 : Reg).val + 1) ∧ InRange (0xFDF#16).toNat (2 * ((15 : Reg).val + 1)) ∧
      q.cfg.quirks.memory = true) := by
  unfold InRange; decide

/-- The first place each access does not fit. -/
theorem witness_DataAccessOutOfRangeFaults :
    (z.setI 0xFFD).viewI = some 0xFFD ∧ z.viewV 0 = some 0 ∧ z.viewV 1 = some 0 ∧ ¬ InRange (0xFFD#16).toNat 3 ∧
    (z.setI 0xFF0).viewI = some 0xFF0 ∧ (∀ k : Reg, k ≤ 15 → (z.setI 0xFF0).vUnwritten[k] = false) ∧
    ¬ InRange (0xFF0#16).toNat ((15 : Reg).val + 1) ∧
    (z.setI 0xFFF).viewI = some 0xFFF ∧ ¬ InRange (0xFFF#16).toNat ((0 : Reg).val + 1) ∧
    ¬ InRange (0xFFF#16).toNat 1 := by
  unfold InRange; decide

/-- Every cell of a state under `Zero` is written. -/
theorem z_cells : ∀ cy cx, (z.viewCell cy cx).isSome := by decide +kernel

/-- A state with a one-byte sprite 0x80 at the last address, V0 and V1 zero. -/
def sprite (s : State) : State := (s.setI 0xFFE).writeMem 0xFFE 0x80

/-- The sprite's one bit covers the cell (0, 0). -/
theorem sprite_covers : Covers (sprite z) (sprite z).i.toNat 1 ((0x00#8).toNat % 64) ((0x00#8).toNat % 32) 0 0 :=
  ⟨0, 0, by decide, by decide, rfl, rfl, by decide⟩

/-- For DrawInvertsCoveredCells and DrawTwiceRestoresDisplay: a covered cell that is 0 and one that is 1, a draw of no
rows that covers nothing, and a draw whose V[x] is VF and stays the same. -/
theorem witness_DrawInvertsCoveredCells :
    ((sprite z).viewV 0 = some 0 ∧ (sprite z).viewV 1 = some 0 ∧ (sprite z).viewV 15 = some 0 ∧
      (sprite z).iUnwritten = false ∧ InRange (sprite z).i.toNat 1 ∧ (∀ cy cx, ((sprite z).viewCell cy cx).isSome) ∧
      (sprite z).cell 0 0 = false ∧
      (({ sprite z with disp := Vector.replicate 32 (BitVec.allOnes 64) } : State)).cell 0 0 = true) ∧
    (∀ cy cx, ¬ Covers u u.i.toNat 0 0 0 cy cx) ∧
    ∃ t, exec (.drw 15 1 1) (sprite z) = .next t ∧ t.viewV 15 = some 0 := by
  refine ⟨⟨by decide, by decide, by decide, by decide, by unfold InRange; decide, z_cells, by decide, by decide⟩, ?_,
    _, rfl, by decide⟩
  rintro cy cx ⟨r, c, h, -⟩
  omega

/-- The first covered cell (0, 0) is unwritten. -/
theorem witness_DrawOverUnwrittenCellFaults :
    let s := ((sprite u).setV 0 0).setV 1 0
    s.viewV 0 = some 0 ∧ s.viewV 1 = some 0 ∧ s.iUnwritten = false ∧ InRange s.i.toNat 1 ∧
    Covers s s.i.toNat 1 ((0x00#8).toNat % 64) ((0x00#8).toNat % 32) 0 0 ∧ s.viewCell 0 0 = none ∧
    ∀ dy dx, Covers s s.i.toNat 1 ((0x00#8).toNat % 64) ((0x00#8).toNat % 32) dy dx → s.viewCell dy dx = none →
      (0 : Fin 32) < dy ∨ ((0 : Fin 32) = dy ∧ (0 : Fin 64) ≤ dx) := by
  refine ⟨by decide, by decide, by decide, by unfold InRange; decide, ⟨0, 0, by decide, by decide, rfl, rfl, by decide⟩,
    by decide, fun dy dx _ _ => ?_⟩
  rcases Nat.eq_zero_or_pos dy.val with h | h
  · exact .inr ⟨Fin.ext h.symm, Nat.zero_le _⟩
  · exact .inl h

/-- No key, one key, the highest and the lowest key together. -/
theorem witness_WaitForKey :
    z.keys = 0x0000#16 ∧ ({ z with keys := 0x8001 } : State).keys ≠ 0x0000#16 ∧
    ∀ m : Reg, ({ z with keys := 0x8000 } : State).keyHeld m.val = true ↔ m = 15 := by decide

theorem witness_SkipOnKey :
    (z.setV 0 0x0F).viewV 0 = some 0x0F ∧ (0x0F#8).toNat ≤ 0xF ∧
    ({ z with keys := 0x8000 } : State).keyHeld 0xF = true ∧ z.keyHeld 0xF = false := by decide

theorem witness_StackAndKeyLimitsFault :
    ({ z with sp := 15 } : State).sp.val = 15 ∧ z.sp.val = 0 ∧
    (z.setV 0 0x10).viewV 0 = some 0x10 ∧ 0x0F < (0x10#8).toNat ∧ 0x0F < (0xFF#8).toNat := by decide

theorem witness_RaiseIsPrecise : ∃ t, z.fault = none ∧ exec .ret z = .next t ∧ t.fault ≠ none :=
  ⟨_, rfl, rfl, by decide⟩

/-- Each clause: V[x] unwritten, the same with I and the lower registers written, V[y] unwritten, V0 unwritten, I
unwritten, the slot at sp unwritten. -/
theorem witness_UnwrittenOperandFaults :
    u.viewV 3 = none ∧
    (let s := ((u.setI 0x300).setV 0 1).setV 1 2
     s.viewV 2 = none ∧ s.iUnwritten = false ∧ (∀ k : Reg, k < 2 → s.vUnwritten[k] = false)) ∧
    ((u.setV 3 1).vUnwritten[(3 : Reg)] = false ∧ (u.setV 3 1).viewV 4 = none) ∧ u.viewV 0 = none ∧
    (let s := (u.setV 3 1).setV 4 1
     s.viewI = none ∧ s.vUnwritten[(3 : Reg)] = false ∧ s.vUnwritten[(4 : Reg)] = false) ∧
    (let s : State := { u with sp := 1 }
     0 < s.sp.val ∧ s.viewStack s.sp = none) := by decide

theorem z_written : NoneUnwritten z := ⟨by decide, by decide, by decide, by decide⟩

theorem witness_NoUnwrittenReadWhenAllWritten :
    NoneUnwritten z ∧ ∃ t f, exec .ret z = .next t ∧ z.fault = none ∧ t.fault = some f :=
  ⟨z_written, _, _, rfl, rfl, rfl⟩

/-- Every event from every mode answers a next state; here each event once. -/
theorem witness_ModeEventsSetMode : ∀ e ∈ [ModeEvent.none, .halt, .stepMode, .run],
    (next (tick (sec 1) e) z).nextInput.event = e ∧ ∃ t, step (next (tick (sec 1) e) z) = .next t := by
  intro e he
  simp only [List.mem_cons, List.not_mem_nil, or_false] at he
  rcases he with rfl | rfl | rfl | rfl <;> exact ⟨rfl, _, rfl⟩

/-- The clock law met, by a reading at the last sample and by a later one: ChangeOfModeRestartsClocks,
CycleClockIssuesAtMostOneCycle, RenderMarksTimerClock and RateBoundsAreKept have this clause. -/
theorem witness_ClockLaw :
    ClockLaw (next (tick (sec 5) .none) { z with now := sec 5 }) ∧ ClockLaw (next (tick (sec 5) .run) z) ∧
    ∃ t, step (next (tick (sec 5) .run) z) = .next t := by
  refine ⟨le_rfl, ?_, _, rfl⟩
  show (0 : ℚ) ≤ ((5 : Nat) : ℚ)
  norm_num

/-- A change to Running, a change to Stepping with and without an advance, a change to Halted, and no change. -/
theorem witness_ChangeOfModeRestartsClocks :
    (∃ t, step (next (tick (sec 5) .run) z) = .next t ∧ t.mode ≠ z.mode ∧ t.mode = .running) ∧
    (∃ t, step (next { tick (sec 5) .stepMode with advance := true } z) = .next t ∧ t.mode ≠ z.mode ∧ t.mode = .stepping) ∧
    (∃ t, step (next (tick (sec 5) .stepMode) z) = .next t ∧ t.mode ≠ z.mode ∧ t.mode = .stepping) ∧
    (∃ t, step (next (tick (sec 5) .halt) { z with mode := .running, cyclesIssued := 9 }) = .next t ∧
      t.mode ≠ .running ∧ t.mode = .halted) ∧
    ∃ t, step (next (tick (sec 5) .halt) z) = .next t ∧ t.mode = z.mode :=
  ⟨⟨_, rfl, by decide, by decide⟩, ⟨_, rfl, by decide, by decide⟩, ⟨_, rfl, by decide, by decide⟩,
    ⟨_, rfl, by decide, by decide⟩, ⟨_, rfl, by decide⟩⟩

theorem witness_HaltedPassKeepsState :
    targetMode z.mode (next (tick (sec 5) .none) z).nextInput.event = .halted ∧ targetMode .running .halt = .halted := by
  decide

/-- Running with a cycle due and with none due; Stepping with and without an advance. For
RenderMarksTimerClock too: the passes without a cycle meet its timer clauses, with and without a firing. -/
theorem witness_CycleClockIssuesAtMostOneCycle :
    (∃ t, step (next (tick (sec 0) .none) { z with mode := .running }) = .next t ∧ t.mode = .running ∧ t.cycleOk ≠ none) ∧
    (∃ t, step (next (tick (sec 0) .none) { z with mode := .running, cyclesIssued := 1, clocksIssued := 1 }) = .next t ∧
      t.mode = .running ∧ t.cycleOk = none ∧ t.render = false) ∧
    (∃ t, step (next { tick (sec 0) .none with advance := true } { z with mode := .stepping }) = .next t ∧
      t.mode = .stepping ∧ t.cycleOk ≠ none ∧ t.render = true) ∧
    ∃ t, step (next (tick (sec 0) .none) { z with mode := .stepping }) = .next t ∧ t.mode = .stepping ∧ t.cycleOk = none :=
  ⟨⟨_, rfl, by decide, by decide⟩, ⟨_, rfl, by decide, by decide, by decide⟩, ⟨_, rfl, by decide, by decide, by decide⟩,
    ⟨_, rfl, by decide, by decide⟩⟩

/-- The timer clauses with a cycle: the word at pc loads neither timer, in a pass that fires in Running. -/
theorem witness_RenderMarksTimerClock :
    (∃ t, step (next (tick (sec 0) .run) (fetching 0x6A3C#16)) = .next t ∧ t.cycleOk ≠ none ∧ t.render = true ∧
      t.mode ≠ .halted) ∧
    ∀ w x, (fetching 0x6A3C#16).fetchWord? = some w →
      decodeWord w ≠ some (.ldDTVx x) ∧ decodeWord w ≠ some (.ldSTVx x) := by
  have h : (fetching 0x6A3C#16).fetchWord? = some 0x6A3C#16 := by decide
  have hd : decodeWord 0x6A3C#16 = some (.ldByte 10 0x3C) := by decide
  refine ⟨⟨_, rfl, by decide, by decide, by decide⟩, fun w x hw => ?_⟩
  cases h.symm.trans hw
  rw [hd]
  exact ⟨nofun, nofun⟩

/-- An instruction that is none of the three, in a pass with a cycle and a tick. -/
theorem witness_ClockOrderMattersToTimerInstructionsOnly :
    (fetching 0x6A3C#16).fetchWord? = some 0x6A3C#16 ∧
    ∀ w i x, (fetching 0x6A3C#16).fetchWord? = some w → decodeWord w = some i →
      i ≠ .ldVxDT x ∧ i ≠ .ldDTVx x ∧ i ≠ .ldSTVx x := by
  have h : (fetching 0x6A3C#16).fetchWord? = some 0x6A3C#16 := by decide
  have hd : decodeWord 0x6A3C#16 = some (.ldByte 10 0x3C) := by decide
  refine ⟨h, fun w i x hw hi => ?_⟩
  cases h.symm.trans hw
  cases hd.symm.trans hi
  exact ⟨nofun, nofun, nofun⟩

/-- Without the load, and with it: DT grows from 0 to 5, and ST too. -/
theorem witness_DelayTimerGrowsByLoadOnly :
    (∃ t, step (next (tick (sec 0) .run) (fetching 0x6A3C#16)) = .next t ∧ t.dt.toNat ≤ z.dt.toNat) ∧
    (∃ t, step (next (tick (sec 0) .run) ((fetching 0xF015#16).setV 0 5)) = .next t ∧ t.dt = 5) ∧
    ∃ t, step (next (tick (sec 0) .run) ((fetching 0xF018#16).setV 0 5)) = .next t ∧ t.st = 5 :=
  ⟨⟨_, rfl, by decide⟩, ⟨_, rfl, by decide⟩, ⟨_, rfl, by decide⟩⟩

/-- A faulted block in Running at a pass with a tick: the clause on the timers is met. -/
theorem witness_FaultIsStickyAndTimersGoOn :
    let s := next (tick (sec 0) .run) { z.raise .stackOverflow with dt := 5 }
    s.fault ≠ none ∧ ∃ t, step s = .next t ∧ t.render = true ∧ t.mode ≠ .halted ∧ t.dt = 4 :=
  ⟨by decide, _, rfl, by decide, by decide, by decide⟩

theorem witness_EventLogGrowsByUndefinedWordsOnly :
    ∃ t, step (next (tick (sec 0) .run) z) = .next t ∧ t.events = [.undefinedOpcode 0x200 0x0000] := ⟨_, rfl, by decide⟩

/-- Both values of `UNLISTED_RESET`, and both ends of the font. -/
theorem witness_ResetValues :
    plain.unlistedReset = .zero ∧ ({ plain with unlistedReset := .unwritten } : Config).unlistedReset = .unwritten := by
  decide

/-- A ROM of one byte, and the last byte of a ROM longer than ROM_MAX. -/
theorem witness_LoaderCopiesRom :
    0 < min [0x12#8].length 3583 ∧ 3582 < min (List.replicate 4000 0x12#8).length 3583 := by
  rw [List.length_replicate]; decide

theorem z_inv (p : PassInput) : MachineInv (next p z) where
  mem := rfl
  pc := by show (512 : Nat) ≤ 0x10FE; decide
  stack := by show ∀ k : Fin 16, z.stack[k].toNat < pcMod; decide
  zero := fun _ => ⟨z_written.v, z_written.i, z_written.stack, z_written.disp⟩
  events := fun _ _ h => nomatch h
  fault := fun _ h => nomatch h

/-- A step that runs a cycle and a tick from a state that meets the invariant. -/
theorem witness_StepKeepsInvariant :
    MachineInv (next (tick (sec 0) .run) z) ∧ ∃ t, step (next (tick (sec 0) .run) z) = .next t := ⟨z_inv _, _, rfl⟩

/-- A step in Running one second after the last sample. -/
theorem witness_RateBoundsAreKept :
    let s := next (tick (sec 1) .none) { z with mode := .running, cyclesIssued := 1, clocksIssued := 1 }
    RateInv s ∧ ClockLaw s ∧ ∃ t, step s = .next t := by
  refine ⟨⟨le_rfl, ?_, fun _ => ?_⟩, ?_, _, rfl⟩
  · show ((1 : Nat) : Int) ≤ ⌊((0 : ℚ) - 0) * clockF⌋ + 1; simp
  · show ((1 : Nat) : Int) ≤ ⌊((0 : ℚ) - 0) * 700⌋ + 1; simp
  · show (0 : ℚ) ≤ ((1 : Nat) : ℚ); norm_num

end Sys2Proof.Tests
end

section
/-! The decoder and the opcode table (R104, R112): a word decodes to an instruction of a row exactly when that row is
in the table and the word matches it. -/

namespace Sys2Proof.Proofs.OpcodeRows

open Sys2Proof

variable {w mask m : Word} {i : Instr} {row : Word × Word} {op n : BitVec 4} {b : Byte}

/-! ### A word put together again from its fields -/

theorem regBits_xOf (w : Word) : regBits (xOf w) = w.extractLsb' 8 4 := rfl

theorem regBits_yOf (w : Word) : regBits (yOf w) = w.extractLsb' 4 4 := rfl

theorem encAddr_fields (hop : opOf w = op) : encAddr op (addrOf w) = w := by
  rw [← hop]
  exact BitVec.extractLsb'_append_extractLsb'

theorem encXByte_fields (hop : opOf w = op) (hb : byteOf w = b) : encXByte op (xOf w) b = w := by
  rw [← hop, ← hb, encXByte, regBits_xOf, opOf,
    BitVec.extractLsb'_append_extractLsb'_eq_extractLsb' (show 12 = 8 + 4 from rfl)]
  exact BitVec.extractLsb'_append_extractLsb'

theorem encXYN_fields (hop : opOf w = op) (hn : nOf w = n) : encXYN op (xOf w) (yOf w) n = w := by
  rw [← hop, ← hn, encXYN, regBits_xOf, regBits_yOf, opOf,
    BitVec.extractLsb'_append_extractLsb'_eq_extractLsb' (show 12 = 8 + 4 from rfl),
    BitVec.extractLsb'_append_extractLsb'_eq_extractLsb' (show 8 = 4 + 4 from rfl)]
  exact BitVec.extractLsb'_append_extractLsb'

/-! ### A word that decodes is the encoding of its instruction, and so lies in its row -/

theorem encode_of_decode0 (h : decode0 w = some i) : encode i = w := by
  unfold decode0 at h
  split at h
  case isTrue hw => cases h; exact hw.symm
  split at h <;> cases h
  exact Eq.symm ‹w = 0x00EE#16›

theorem encode_of_decode8 (hop : opOf w = 0x8) (h : decode8 w = some i) : encode i = w := by
  unfold decode8 at h
  split at h <;> cases h
  all_goals exact encXYN_fields hop ‹nOf w = _›

theorem encode_of_decodeE (hop : opOf w = 0xE) (h : decodeE w = some i) : encode i = w := by
  unfold decodeE at h
  split at h <;> cases h
  all_goals exact encXByte_fields hop ‹byteOf w = _›

theorem encode_of_decodeF (hop : opOf w = 0xF) (h : decodeF w = some i) : encode i = w := by
  unfold decodeF at h
  split at h <;> cases h
  all_goals exact encXByte_fields hop ‹byteOf w = _›

/-- The decoder drops no bit of the word. The cases are the values of `op`, 0x0 to 0xF, grouped by the fields that each
of them reads. -/
theorem encode_of_decodeWord (h : decodeWord w = some i) : encode i = w := by
  unfold decodeWord at h
  split at h
  case h_1 => exact encode_of_decode0 h
  case h_2 hop | h_3 hop | h_11 hop | h_12 hop => cases h; exact encAddr_fields hop
  case h_4 hop | h_5 hop | h_7 hop | h_8 hop | h_13 hop => cases h; exact encXByte_fields hop rfl
  case h_6 hop | h_10 hop =>
    split at h <;> cases h
    exact encXYN_fields hop ‹nOf w = 0#4›
  case h_9 hop => exact encode_of_decode8 hop h
  case h_14 hop =>
    cases h
    exact encXYN_fields hop (by simp)
  case h_15 hop => exact encode_of_decodeE hop h
  case h_16 =>
    have hop : opOf w = 0xF := by
      clear h
      generalize opOf w = op at *
      revert op
      decide
    exact encode_of_decodeF hop h

open Laws.EncodeRow in
/-- The laws of the single instructions as one: every encoding lies in its row, and the row is in the table. -/
theorem encodeRow : ∀ i : Instr, Statement i
  | .cls => cls | .ret => ret | .jp a => jp a | .call a => call a
  | .seByte x b => seByte x b | .sneByte x b => sneByte x b | .seReg x y => seReg x y
  | .ldByte x b => ldByte x b | .addByte x b => addByte x b
  | .ldReg x y => ldReg x y | .orReg x y => orReg x y | .andReg x y => andReg x y | .xorReg x y => xorReg x y
  | .addReg x y => addReg x y | .subReg x y => subReg x y | .shr x y => shr x y | .subnReg x y => subnReg x y
  | .shl x y => shl x y | .sneReg x y => sneReg x y
  | .ldI a => ldI a | .jpV0 a => jpV0 a | .rnd x b => rnd x b | .drw x y n => drw x y n
  | .skp x => skp x | .sknp x => sknp x
  | .ldVxDT x => ldVxDT x | .ldVxK x => ldVxK x | .ldDTVx x => ldDTVx x | .ldSTVx x => ldSTVx x | .addI x => addI x
  | .ldF x => ldF x | .ldB x => ldB x | .ldMemVx x => ldMemVx x | .ldVxMem x => ldVxMem x

theorem matchesRow_of_decodeWord (h : decodeWord w = some i) : rowOf i ∈ opcodeRows ∧ MatchesRow w (rowOf i) := by
  obtain ⟨hmatch, hmem⟩ := encodeRow i
  rw [encode_of_decodeWord h] at hmatch
  exact ⟨hmem, hmatch⟩

/-! ### A word of a row decodes to an instruction of that row -/

/-- A field that the mask keeps whole is the same in the word and in the row's match. -/
theorem extractLsb'_of_matchesRow {start len : Nat} (h : MatchesRow w (mask, m))
    (hmask : mask.extractLsb' start len = BitVec.allOnes len) :
    w.extractLsb' start len = m.extractLsb' start len := by
  rw [← show w &&& mask = m from h, BitVec.extractLsb'_and, hmask, BitVec.and_allOnes]

theorem rowOf_decodeWord_of_mask_FFFF (hr : (0xFFFF, m) ∈ opcodeRows) :
    (decodeWord m).map rowOf = some (0xFFFF, m) := by
  have hm : m ∈ [0x00E0#16, 0x00EE#16] := by simpa [opcodeRows] using hr
  fin_cases hm <;> rfl

theorem rowOf_decodeWord_of_mask_F000 (hr : (0xF000, m) ∈ opcodeRows) (hop : opOf w = opOf m) :
    (decodeWord w).map rowOf = some (0xF000, m) := by
  have hm : m ∈ [0x1000#16, 0x2000#16, 0x3000#16, 0x4000#16, 0x6000#16, 0x7000#16, 0xA000#16, 0xB000#16, 0xC000#16,
      0xD000#16] := by simpa [opcodeRows] using hr
  rw [decodeWord, hop]
  fin_cases hm <;> rfl

theorem rowOf_decodeWord_of_mask_F00F (hr : (0xF00F, m) ∈ opcodeRows) (hop : opOf w = opOf m) (hn : nOf w = nOf m) :
    (decodeWord w).map rowOf = some (0xF00F, m) := by
  have hm : m ∈ [0x5000#16, 0x8000#16, 0x8001#16, 0x8002#16, 0x8003#16, 0x8004#16, 0x8005#16, 0x8006#16, 0x8007#16,
      0x800E#16, 0x9000#16] := by simpa [opcodeRows] using hr
  rw [decodeWord, decode8, hop, hn]
  fin_cases hm <;> rfl

theorem rowOf_decodeWord_of_mask_F0FF (hr : (0xF0FF, m) ∈ opcodeRows) (hop : opOf w = opOf m)
    (hb : byteOf w = byteOf m) : (decodeWord w).map rowOf = some (0xF0FF, m) := by
  have hm : m ∈ [0xE09E#16, 0xE0A1#16, 0xF007#16, 0xF00A#16, 0xF015#16, 0xF018#16, 0xF01E#16, 0xF029#16, 0xF033#16,
      0xF055#16, 0xF065#16] := by simpa [opcodeRows] using hr
  rw [decodeWord, decodeE, decodeF, hop, hb]
  fin_cases hm <;> rfl

theorem mask_of_mem_opcodeRows :
    ∀ row ∈ opcodeRows, row.1 = 0xFFFF ∨ row.1 = 0xF000 ∨ row.1 = 0xF00F ∨ row.1 = 0xF0FF := by
  simp [opcodeRows]

/-- By the mask of the row: the fields it keeps whole are those by which the decoder selects. -/
theorem rowOf_decodeWord_of_matchesRow (hr : row ∈ opcodeRows) (h : MatchesRow w row) :
    (decodeWord w).map rowOf = some row := by
  obtain ⟨mask, m⟩ := row
  obtain rfl | rfl | rfl | rfl := mask_of_mem_opcodeRows _ hr
  · have hw : w = m := BitVec.and_allOnes.symm.trans h
    rw [hw]
    exact rowOf_decodeWord_of_mask_FFFF hr
  · exact rowOf_decodeWord_of_mask_F000 hr (extractLsb'_of_matchesRow h rfl)
  · exact rowOf_decodeWord_of_mask_F00F hr (extractLsb'_of_matchesRow h rfl) (extractLsb'_of_matchesRow h rfl)
  · exact rowOf_decodeWord_of_mask_F0FF hr (extractLsb'_of_matchesRow h rfl) (extractLsb'_of_matchesRow h rfl)

/-- The decoder and the table agree (R104): the row of the decoded instruction is the row the word matches. -/
theorem rowOf_decodeWord_eq_some_iff :
    (decodeWord w).map rowOf = some row ↔ row ∈ opcodeRows ∧ MatchesRow w row := by
  constructor
  · intro h
    obtain ⟨i, hi, rfl⟩ := Option.map_eq_some_iff.1 h
    exact matchesRow_of_decodeWord hi
  · rintro ⟨hr, h⟩
    exact rowOf_decodeWord_of_matchesRow hr h

theorem decodeWord_eq_none_iff : decodeWord w = none ↔ ∀ row ∈ opcodeRows, ¬ MatchesRow w row := by
  rw [← Option.map_eq_none_iff (f := rowOf), Option.eq_none_iff_forall_ne_some]
  simp only [ne_eq, rowOf_decodeWord_eq_some_iff, not_and]

/-- Settles O4: the decoder answers an instruction of a row exactly for the words of that row, so a word of no row is
undefined, and two rows of one word are both the row of the one instruction it decodes to. -/
theorem decoderSelectsUniqueRow : Obligations.DecoderSelectsUniqueRow := by
  refine ⟨fun _ _ => matchesRow_of_decodeWord, fun _ => decodeWord_eq_none_iff, ?_⟩
  intro w r hr q hq hwr hwq
  have hdr := rowOf_decodeWord_of_matchesRow hr hwr
  have hdq := rowOf_decodeWord_of_matchesRow hq hwq
  exact Option.some.inj (hdr.symm.trans hdq)

end Sys2Proof.Proofs.OpcodeRows
end

section
/-! The executor cycle (R140 to R147): one equation for each thing it can do, and its signal. -/

namespace Sys2Proof.Proofs.Cycle

open Sys2Proof Sys2Proof.Machine

variable {s t : State} {w : Word} {i : Instr}

/-! ### What the cycle answers -/

theorem cycle_of_faulted (h : s.fault ≠ none) : cycle s = .next (s.signal .failure) :=
  if_pos (Option.isSome_iff_ne_none.2 h)

theorem cycle_of_badFetch (hf : s.fault = none) (hw : s.fetchWord? = none) :
    cycle s = .next (s.fetchFault.signal .failure) := by
  simp only [cycle, hf, hw, Option.isSome_none, Bool.false_eq_true, if_false]

theorem cycle_of_undefined (hf : s.fault = none) (hw : s.fetchWord? = some w) (hd : decodeWord w = none) :
    cycle s = .next ((s.skipUndefined w).signal .failure) := by
  simp only [cycle, hf, hw, hd, Option.isSome_none, Bool.false_eq_true, if_false]

theorem cycle_of_defined (hf : s.fault = none) (hw : s.fetchWord? = some w) (hd : decodeWord w = some i) :
    cycle s = mapNext State.signalDone (exec i s) := by
  simp only [cycle, hf, hw, hd, Option.isSome_none, Bool.false_eq_true, if_false]

/-- The fault of a fetch out of range: the lowest bad address is `pc_f` itself, or MEM_SIZE when only the second byte
is out of range. -/
theorem fetchFault_eq (hw : s.fetchWord? = none) :
    s.fetchFault = { s with
      fault := some { cause := .memoryOutOfRange (max s.pc.toNat memSize), pcF := s.pc, word := none } } := by
  have hpc := (State.fetchWord?_eq_none s).1 hw
  have hbad : firstBad s.pc.toNat 2 = some (max s.pc.toNat memSize) :=
    firstBad_eq_some.2 ⟨by omega, by omega, rfl⟩
  rw [State.fetchFault, State.raise, hbad, hw, Option.getD_some]

/-! ### The signal -/

theorem signalDone_cycleOk_of_clear (h : t.fault = none) : t.signalDone.cycleOk = some .success := by
  simp [State.signalDone, h]

theorem signalDone_cycleOk_of_faulted (h : t.fault ≠ none) : t.signalDone.cycleOk = some .failure := by
  simp [State.signalDone, Option.isSome_iff_ne_none.2 h]

/-- The block is clear before and after, and a defined instruction was fetched (R147). -/
def Completes (s t : State) : Prop :=
  s.fault = none ∧ t.fault = none ∧ ∃ w i, s.fetchWord? = some w ∧ decodeWord w = some i

/-- By what the cycle did: only a defined instruction that left the fault register clear completes. -/
theorem cycleOk_of_effect (h : CycleEffect s t) :
    (Completes s t ∧ t.cycleOk = some .success) ∨ (¬ Completes s t ∧ t.cycleOk = some .failure) := by
  cases h with
  | faulted hf => exact .inr ⟨fun ⟨hs, _⟩ => hf hs, rfl⟩
  | badFetch _ hw => exact .inr ⟨fun ⟨_, _, _, _, hw', _⟩ => by simp [hw] at hw', rfl⟩
  | undefined _ hw hd =>
    refine .inr ⟨fun ⟨_, _, w', i, hw', hd'⟩ => ?_, rfl⟩
    cases hw.symm.trans hw'
    cases hd.symm.trans hd'
  | @ran w i u hf hw hd _ =>
    by_cases hu : u.fault = none
    · exact .inl ⟨⟨hf, hu, w, i, hw, hd⟩, signalDone_cycleOk_of_clear hu⟩
    · exact .inr ⟨fun ⟨_, hu', _⟩ => hu hu', signalDone_cycleOk_of_faulted hu⟩

/-! ### The obligations -/

/-- Settles O11: by what the cycle did, it succeeds exactly when it completes. -/
theorem cycleSignalsSuccess : Obligations.CycleSignalsSuccess := by
  intro s t h
  obtain ⟨hc, hok⟩ | ⟨hc, hok⟩ := cycleOk_of_effect (cycle_effect h)
  · exact ⟨iff_of_true hok hc, .inl hok⟩
  · exact ⟨iff_of_false (by simp [hok]) hc, .inr hok⟩

/-- Settles O8: at such a pc nothing is fetched, and the advance is taken modulo PC_MOD, 0xFFE. -/
theorem fetchOutOfRangeFaults : Obligations.FetchOutOfRangeFaults := by
  refine ⟨fun s hf hpc => ?_, adv_lt⟩
  have hw : s.fetchWord? = none := (State.fetchWord?_eq_none s).2 (Nat.add_le_add_right hpc 1)
  rw [cycle_of_badFetch hf hw, fetchFault_eq hw]
  rfl

/-- Settles O9: the cycle skips the undefined word, which is the advance and the event. -/
theorem undefinedWordIsReportedNoOp : Obligations.UndefinedWordIsReportedNoOp :=
  fun _ _ hf hw hd => cycle_of_undefined hf hw hd

/-- Settles O10: a faulted block drives its signal and nothing else. -/
theorem faultedBlockExecutesNothing : Obligations.FaultedBlockExecutesNothing :=
  fun _ hf => cycle_of_faulted hf

end Sys2Proof.Proofs.Cycle
end

section
/-! Jumps, CALL and RET (R161 to R163, R168, R170): one equation for each way they complete, and what RET finds on the
stack after a CALL. -/

namespace Sys2Proof.Proofs.Jumps

open Sys2Proof Sys2Proof.Machine

variable {s : State} {a : Word} {b : Byte} {addr : BitVec 12}

/-! ### The target of JP V0 -/

/-- The sum of R168 is at most 0xFFF + 0xFF, which 16 bits hold. -/
theorem toNat_jpV0Target (addr : BitVec 12) (b : Byte) :
    (addr.setWidth 16 + b.setWidth 16).toNat = addr.toNat + b.toNat := by
  rw [BitVec.toNat_add, BitVec.toNat_setWidth_of_le (by decide), BitVec.toNat_setWidth_of_le (by decide)]
  omega

theorem jpV0Target_eq_ofNat (addr : BitVec 12) (b : Byte) :
    addr.setWidth 16 + b.setWidth 16 = BitVec.ofNat 16 (addr.toNat + b.toNat) := by
  rw [← toNat_jpV0Target, BitVec.ofNat_toNat, BitVec.setWidth_eq]

/-! ### How the instructions complete -/

theorem exec_jp (s : State) (addr : BitVec 12) :
    exec (.jp addr) s = .next { s with pc := BitVec.ofNat 16 addr.toNat } := by
  rw [BitVec.ofNat_toNat]
  rfl

theorem exec_jpV0_of_view (h : s.viewV 0 = some b) :
    exec (.jpV0 addr) s = .next { s with pc := BitVec.ofNat 16 (addr.toNat + b.toNat) } := by
  rw [← jpV0Target_eq_ofNat, exec, execJpV0, withV_of_view h]
  rfl

theorem exec_jpV0_raises (h : s.viewV 0 = none) : RaisesAt (.jpV0 addr) s (.unwrittenRead (.v 0)) := by
  rw [RaisesAt, exec, execJpV0, withV_raises h]
  rfl

theorem exec_call_of_sp_ne (h : s.sp ≠ 15) :
    exec (.call addr) s = .next ((s.advance.push (adv s.pc)).setPc (addr.setWidth 16)) :=
  if_neg h

theorem exec_ret_of_view (h : s.sp ≠ 0) (ha : s.viewStack s.sp = some a) :
    exec .ret s = .next (s.advance.pop.setPc a) := by
  rw [exec, execRet, if_neg h, withTop_of_view ha]

/-! ### The slot that `push` leaves on top -/

theorem viewStack_push_top (s : State) (a : Word) : (s.push a).viewStack (s.push a).sp = some a := by
  rw [State.viewStack_eq_some]
  exact ⟨Vector.getElem_set_self _, Vector.getElem_set_self _⟩

theorem sp_push_ne_zero (a : Word) (h : s.sp.val ≤ 14) : (s.push a).sp ≠ 0 := by
  rw [State.push_sp]
  omega

/-- After a `push`, wherever pc went, RET jumps to the pushed word. -/
theorem exec_ret_after_push {p : Word} (h : s.sp.val ≤ 14) :
    exec .ret ((s.push a).setPc p) = .next (((s.push a).setPc p).advance.pop.setPc a) :=
  exec_ret_of_view (sp_push_ne_zero a h) (viewStack_push_top s a)

/-! ### The obligations -/

/-- Settles O24: below 15 the CALL completes, and the slot its push leaves on top is written and holds the advanced
pc, so the RET completes with that pc and takes back the one step of sp. -/
theorem callThenReturnRestores : Obligations.CallThenReturnRestores := by
  intro s addr hsp
  exact ⟨_, _, exec_call_of_sp_ne (by omega), exec_ret_after_push (s := s.advance) hsp, rfl,
    add_sub_cancel_right s.sp 1⟩

/-- Settles O21: a jump overwrites the advanced pc, and the sum of R168 does not wrap. -/
theorem jumpsWriteProgramCounterOnly : Obligations.JumpsWriteProgramCounterOnly := by
  intro s addr b
  refine ⟨exec_jp s addr, fun h => ⟨exec_jpV0_of_view h, ?_⟩, exec_jpV0_raises⟩
  rw [← jpV0Target_eq_ofNat, toNat_jpV0Target]

end Sys2Proof.Proofs.Jumps
end

section
/-! LD [I],Vx and LD Vx,[I] (R214 to R217): the state each completes with, and what the second finds after the
first. -/

namespace Sys2Proof.Proofs.IndexMemory

open Sys2Proof Sys2Proof.Machine

variable {s : State} {x k : Reg} {i : Word} {a : Nat}

/-! ### How the instructions complete -/

/-- The bytes LD [I],Vx stores: V0 to V[x]. -/
def bytesUpTo (s : State) (x : Reg) : List Byte := ((List.finRange 16).take (x.val + 1)).map s.getV

/-- The state LD [I],Vx completes with when I is `i`. -/
def afterStore (s : State) (x : Reg) (i : Word) : State :=
  (s.advance.writeBytes i.toNat (bytesUpTo s x)).bumpI x

/-- The state LD Vx,[I] completes with when I is `i`. -/
def afterLoad (s : State) (x : Reg) (i : Word) : State :=
  (s.advance.setVUpTo x fun k => s.readMem (i.toNat + k)).bumpI x

theorem exec_ldMemVx_of_view (hI : s.viewI = some i) (hV : ∀ k : Reg, k ≤ x → s.vUnwritten[k] = false)
    (hr : InRange i.toNat (x.val + 1)) : exec (.ldMemVx x) s = .next (afterStore s x i) := by
  rw [exec, execLdMemVx, withI_of_view hI, withVUpTo_of_written hV, withRange_of_inRange (.inr hr)]
  rfl

theorem exec_ldVxMem_of_view (hI : s.viewI = some i) (hr : InRange i.toNat (x.val + 1)) :
    exec (.ldVxMem x) s = .next (afterLoad s x i) := by
  rw [exec, execLdVxMem, withI_of_view hI, withRange_of_inRange (.inr hr)]
  rfl

/-! ### What a store leaves in memory -/

theorem length_bytesUpTo (s : State) (x : Reg) : (bytesUpTo s x).length = x.val + 1 := by
  rw [bytesUpTo, List.length_map, List.length_take, List.length_finRange]
  omega

theorem getElem_bytesUpTo (h : k.val < (bytesUpTo s x).length) : (bytesUpTo s x)[k.val] = s.getV k := by
  simp [bytesUpTo]

theorem readMem_afterStore_of_le (hk : k ≤ x) : (afterStore s x i).readMem (i.toNat + k.val) = s.getV k := by
  have hlen : i.toNat + k.val - i.toNat < (bytesUpTo s x).length := by
    rw [length_bytesUpTo, Nat.add_sub_cancel_left]
    exact Nat.lt_succ_of_le hk
  rw [afterStore, State.readMem_bumpI, State.readMem_writeBytes, dif_pos ⟨Nat.le_add_right _ _, hlen⟩]
  simp only [Nat.add_sub_cancel_left, getElem_bytesUpTo]

theorem readMem_afterStore_outside (ha : a < i.toNat ∨ i.toNat + (x.val + 1) ≤ a) :
    (afterStore s x i).readMem a = s.readMem a := by
  rw [← length_bytesUpTo s x] at ha
  rw [afterStore, State.readMem_bumpI, State.readMem_writeBytes_outside _ ha]
  rfl

/-! ### What a load leaves in the registers -/

theorem viewV_afterLoad_of_le (hk : k ≤ x) : (afterLoad s x i).viewV k = some (s.readMem (i.toNat + k.val)) := by
  rw [State.viewV_eq_some, afterLoad, State.getV_bumpI, State.getV_setVUpTo, State.bumpI_vUnwritten,
    State.vUnwritten_setVUpTo_get, if_pos hk, if_pos hk]
  exact ⟨rfl, rfl⟩

/-- A load of the bytes a store wrote gives the stored registers. -/
theorem viewV_afterLoad_of_stored (hV : s.vUnwritten[k] = false) (hk : k ≤ x) {t : State}
    (ht : t.readMem (i.toNat + k.val) = s.getV k) : (afterLoad t x i).viewV k = s.viewV k := by
  rw [viewV_afterLoad_of_le hk, ht, (State.viewV_eq_some s).2 ⟨hV, rfl⟩]

/-! ### I after a store or a load (R216) -/

theorem viewI_advance_writeBytes (s : State) (bs : List Byte) : (s.advance.writeBytes a bs).viewI = s.viewI := by
  simp [State.viewI]

theorem viewI_advance_setVUpTo (s : State) (f : Nat → Byte) : (s.advance.setVUpTo x f).viewI = s.viewI := by
  simp [State.viewI]

theorem viewI_bumpI_of_memory_false (hm : s.cfg.quirks.memory = false) : (s.bumpI x).viewI = s.viewI := by
  simp [State.bumpI, hm]

theorem viewI_bumpI_of_memory_true (hI : s.viewI = some i) (hm : s.cfg.quirks.memory = true) :
    (s.bumpI x).viewI = some (BitVec.ofNat 16 (i.toNat + (x.val + 1))) := by
  obtain ⟨-, hi⟩ := (State.viewI_eq_some s).1 hI
  simp [State.bumpI, hm, State.viewI, hi, BitVec.ofNat_add]

theorem viewI_afterStore_of_memory_false (hm : s.cfg.quirks.memory = false) :
    (afterStore s x i).viewI = s.viewI := by
  rw [afterStore, viewI_bumpI_of_memory_false (by simpa using hm), viewI_advance_writeBytes]

theorem viewI_afterStore_of_memory_true (hI : s.viewI = some i) (hm : s.cfg.quirks.memory = true) :
    (afterStore s x i).viewI = some (BitVec.ofNat 16 (i.toNat + (x.val + 1))) :=
  viewI_bumpI_of_memory_true ((viewI_advance_writeBytes ..).trans hI) (by simpa using hm)

theorem viewI_afterLoad_of_memory_false (hm : s.cfg.quirks.memory = false) :
    (afterLoad s x i).viewI = s.viewI := by
  rw [afterLoad, viewI_bumpI_of_memory_false (by simpa using hm), viewI_advance_setVUpTo]

theorem viewI_afterLoad_of_memory_true (hI : s.viewI = some i) (hm : s.cfg.quirks.memory = true) :
    (afterLoad s x i).viewI = some (BitVec.ofNat 16 (i.toNat + (x.val + 1))) :=
  viewI_bumpI_of_memory_true ((viewI_advance_setVUpTo ..).trans hI) (by simpa using hm)

theorem cfg_afterStore (s : State) (x : Reg) (i : Word) : (afterStore s x i).cfg = s.cfg := by
  simp [afterStore]

/-! ### A store and then a load -/

/-- Under `memory` false, I still points to the stored bytes (R217). -/
theorem load_after_store_of_memory_false (hI : s.viewI = some i) (hV : ∀ k : Reg, k ≤ x → s.vUnwritten[k] = false)
    (hr : InRange i.toNat (x.val + 1)) (hm : s.cfg.quirks.memory = false) :
    ∃ u, exec (.ldVxMem x) (afterStore s x i) = .next u ∧ (∀ k : Reg, k ≤ x → u.viewV k = s.viewV k) ∧
      u.viewI = s.viewI := by
  have hIt : (afterStore s x i).viewI = s.viewI := viewI_afterStore_of_memory_false hm
  refine ⟨_, exec_ldVxMem_of_view (hIt.trans hI) hr, fun k hk => ?_, ?_⟩
  · exact viewV_afterLoad_of_stored (hV k hk) hk (readMem_afterStore_of_le hk)
  · rw [viewI_afterLoad_of_memory_false (by rwa [cfg_afterStore]), hIt]

/-- Under `memory` true, I points past the stored bytes, to bytes the store left as they were, and does not wrap
(R216, R217). -/
theorem load_after_store_of_memory_true (hI : s.viewI = some i) (hm : s.cfg.quirks.memory = true)
    (hr : InRange i.toNat (2 * (x.val + 1))) :
    ∃ u, exec (.ldVxMem x) (afterStore s x i) = .next u ∧
      (∀ k : Reg, k ≤ x → u.viewV k = some (s.readMem (i.toNat + (x.val + 1) + k.val))) ∧
      u.viewI = some (BitVec.ofNat 16 (i.toNat + 2 * (x.val + 1))) := by
  have hIt := viewI_afterStore_of_memory_true (x := x) hI hm
  have hj : (BitVec.ofNat 16 (i.toNat + (x.val + 1))).toNat = i.toNat + (x.val + 1) := by
    rw [BitVec.toNat_ofNat]
    unfold InRange memSize at hr
    omega
  have hrt : InRange (BitVec.ofNat 16 (i.toNat + (x.val + 1))).toNat (x.val + 1) := by
    rwa [hj, InRange, Nat.add_assoc, ← Nat.two_mul]
  refine ⟨_, exec_ldVxMem_of_view hIt hrt, fun k hk => ?_, ?_⟩
  · rw [viewV_afterLoad_of_le hk, hj, readMem_afterStore_outside (.inr (Nat.le_add_right _ _))]
  · rw [viewI_afterLoad_of_memory_true hIt (by rwa [cfg_afterStore]), hj, Nat.add_assoc, Nat.two_mul]

/-! ### The obligation -/

/-- Settles O31: the store completes; a load from I0 finds the stored bytes, whether I is put back there or, with
`memory` false, was never moved; with `memory` true it finds the bytes behind them. -/
theorem storeThenLoadRoundTrip : Obligations.StoreThenLoadRoundTrip := by
  intro s x i hI hV hr
  refine ⟨_, _, exec_ldMemVx_of_view hI hV hr, exec_ldVxMem_of_view rfl hr, fun k hk => ?_,
    load_after_store_of_memory_false hI hV hr, load_after_store_of_memory_true hI⟩
  exact viewV_afterLoad_of_stored (hV k hk) hk (readMem_afterStore_of_le hk)

end Sys2Proof.Proofs.IndexMemory
end

section
/-! CLS and DRW (R231 to R241): the state each completes with, and what a second DRW of the same sprite finds after the
first. -/

namespace Sys2Proof.Proofs.Display

open Sys2Proof Sys2Proof.Machine

variable {s t : State} {x y : Reg} {n base x0 y0 : Nat} {a b : Byte} {cy : Fin 32} {cx : Fin 64}

/-! ### CLS -/

theorem viewCell_clearDisp (s : State) (cy : Fin 32) (cx : Fin 64) : s.clearDisp.viewCell cy cx = some false := by
  simp [State.viewCell, State.cell]

theorem changesOnly_advance_clearDisp (s : State) : ChangesOnly [.disp, .pc] s s.advance.clearDisp := by
  refine ⟨by constructor <;> rfl, fun p hp => ?_⟩
  cases p with
  | disp | pc => simp at hp
  | v | i => exact ⟨rfl, rfl⟩
  | stack => exact ⟨rfl, rfl, rfl⟩
  | mem => exact ⟨fun _ => rfl, rfl⟩
  | dt | st | fault | draws => rfl

/-! ### The cells a sprite covers -/

theorem pattern_getMsbD_iff_covers :
    (s.pattern base n x0 y0)[cy].getMsbD cx = true ↔ Covers s base n x0 y0 cy cx :=
  s.pattern_getMsbD ..

theorem spriteHit_iff_covers :
    s.spriteHit base n x0 y0 = true ↔ ∃ cy cx, Covers s base n x0 y0 cy cx ∧ s.cell cy cx = true := by
  simp only [State.spriteHit_iff, pattern_getMsbD_iff_covers]

theorem covers_congr (h : ∀ k, t.readMem k = s.readMem k) :
    Covers t base n x0 y0 cy cx ↔ Covers s base n x0 y0 cy cx := by
  simp only [Covers, h]

/-! ### How DRW completes -/

/-- The state a DRW of `n` rows completes with, its corner at column `x0`, row `y0`. -/
def afterDraw (s : State) (n x0 y0 : Nat) : State :=
  (s.advance.xorDisp (s.pattern s.i.toNat n x0 y0)).setV regF (flagByte (s.spriteHit s.i.toNat n x0 y0))

/-- DRW of `n` rows at (V[x], V[y]) = (a, b) completes: its operands are written, its bytes are in range, and every
cell it reads is written. A DRW of no rows does not read I (R238). -/
structure Draws (s : State) (x y : Reg) (n : Nat) (a b : Byte) : Prop where
  vx    : s.viewV x = some a
  vy    : s.viewV y = some b
  rows  : 0 < n → s.iUnwritten = false ∧ InRange s.i.toNat n
  cells : ∀ cy cx, Covers s s.i.toNat n (a.toNat % 64) (b.toNat % 32) cy cx → (s.viewCell cy cx).isSome

/-! A sprite of no rows is the same wherever it lies in memory, so reading I or not makes no difference (R238). -/

theorem pattern_zero (s : State) (base x0 y0 : Nat) : s.pattern base 0 x0 y0 = Vector.replicate 32 0#64 := by
  refine Vector.ext fun k hk => ?_
  rw [State.pattern, Vector.getElem_ofFn, Vector.getElem_replicate, if_neg (by omega)]

theorem spriteHit_zero (s : State) (base x0 y0 : Nat) : s.spriteHit base 0 x0 y0 = false := rfl

theorem drawSprite_zero (base' : Nat) : drawSprite base 0 x0 y0 s = drawSprite base' 0 x0 y0 s := by
  simp only [drawSprite, pattern_zero, spriteHit_zero]

theorem drawSprite_of_written
    (h : ∀ cy cx, Covers s s.i.toNat n x0 y0 cy cx → (s.viewCell cy cx).isSome) :
    drawSprite s.i.toNat n x0 y0 s = .next (afterDraw s n x0 y0) := by
  have hnone : s.firstUnwrittenCell (s.pattern s.i.toNat n x0 y0) = none :=
    s.firstUnwrittenCell_eq_none.2 fun cy cx hm => s.viewCell_isSome.1 (h cy cx (pattern_getMsbD_iff_covers.1 hm))
  rw [drawSprite, hnone]
  rfl

theorem exec_drw_of_draws (h : Draws s x y n a b) :
    exec (.drw x y n) s = .next (afterDraw s n (a.toNat % 64) (b.toNat % 32)) := by
  rw [exec, execDrw, withV_of_view h.vx, withV_of_view h.vy, ← drawSprite_of_written h.cells]
  rcases Nat.eq_zero_or_pos n with rfl | hn
  · rw [withSpriteBase, if_pos rfl, withRange_of_inRange (.inl rfl), drawSprite_zero]
  · obtain ⟨hI, hr⟩ := h.rows hn
    rw [withSpriteBase, if_neg hn.ne', withI_of_view (s.viewI_eq_some.2 ⟨hI, rfl⟩), withRange_of_inRange (.inr hr)]

/-! ### What a DRW leaves -/

@[simp] theorem afterDraw_i : (afterDraw s n x0 y0).i = s.i := by simp [afterDraw]

@[simp] theorem afterDraw_iUnwritten : (afterDraw s n x0 y0).iUnwritten = s.iUnwritten := by simp [afterDraw]

@[simp] theorem afterDraw_dispUnwritten : (afterDraw s n x0 y0).dispUnwritten = s.dispUnwritten := by
  simp [afterDraw]

@[simp] theorem readMem_afterDraw (k : Nat) : (afterDraw s n x0 y0).readMem k = s.readMem k :=
  State.readMem_congr (by simp [afterDraw]) (by simp [afterDraw]) k

@[simp] theorem covers_afterDraw {m u v : Nat} :
    Covers (afterDraw s n x0 y0) base m u v cy cx ↔ Covers s base m u v cy cx :=
  covers_congr readMem_afterDraw

theorem isSome_viewCell_afterDraw :
    ((afterDraw s n x0 y0).viewCell cy cx).isSome ↔ (s.viewCell cy cx).isSome := by
  simp only [State.viewCell_isSome, afterDraw_dispUnwritten]

theorem viewV_afterDraw_of_ne (h : x ≠ 15) : (afterDraw s n x0 y0).viewV x = s.viewV x := by
  rw [afterDraw, State.viewV_setV, if_neg h.symm]
  simp [State.viewV, State.getV]

/-- A cell after the draw is the cell before it, XORed with the sprite's bit (R232). -/
theorem cell_afterDraw :
    (afterDraw s n x0 y0).cell cy cx = (s.cell cy cx != (s.pattern s.i.toNat n x0 y0)[cy].getMsbD cx) :=
  s.advance.cell_xorDisp ..

theorem cell_afterDraw_of_covers (h : Covers s s.i.toNat n x0 y0 cy cx) :
    (afterDraw s n x0 y0).cell cy cx = !s.cell cy cx := by
  rw [cell_afterDraw, pattern_getMsbD_iff_covers.2 h, Bool.bne_true]

theorem cell_afterDraw_of_not_covers (h : ¬ Covers s s.i.toNat n x0 y0 cy cx) :
    (afterDraw s n x0 y0).cell cy cx = s.cell cy cx := by
  rw [cell_afterDraw, Bool.eq_false_iff.2 (mt pattern_getMsbD_iff_covers.1 h), Bool.bne_false]

theorem viewV_afterDraw_flag :
    (afterDraw s n x0 y0).viewV 15 = some (flagByte (s.spriteHit s.i.toNat n x0 y0)) := by
  rw [afterDraw, State.viewV_setV, if_pos rfl]

theorem viewV_afterDraw_of_hit (h : ∃ cy cx, Covers s s.i.toNat n x0 y0 cy cx ∧ s.cell cy cx = true) :
    (afterDraw s n x0 y0).viewV 15 = some 1 := by
  rw [viewV_afterDraw_flag, spriteHit_iff_covers.2 h]
  rfl

theorem viewV_afterDraw_of_no_hit (h : ¬ ∃ cy cx, Covers s s.i.toNat n x0 y0 cy cx ∧ s.cell cy cx = true) :
    (afterDraw s n x0 y0).viewV 15 = some 0 := by
  rw [viewV_afterDraw_flag, Bool.eq_false_iff.2 (mt spriteHit_iff_covers.1 h)]
  rfl

/-! ### A second DRW of the same sprite -/

/-- The first DRW leaves I, the sprite's bytes and the marks of the cells, so only V[x] and V[y] are in question. -/
theorem draws_afterDraw (h : Draws s x y n a b) (hx : (afterDraw s n x0 y0).viewV x = some a)
    (hy : (afterDraw s n x0 y0).viewV y = some b) : Draws (afterDraw s n x0 y0) x y n a b where
  vx := hx
  vy := hy
  rows := by simpa using h.rows
  cells cy cx hc := isSome_viewCell_afterDraw.2 (h.cells cy cx (by simpa using hc))

/-- Both draws XOR a cell with the same bit. -/
theorem cell_afterDraw_twice :
    (afterDraw (afterDraw s n x0 y0) n x0 y0).cell cy cx = s.cell cy cx := by
  by_cases hc : Covers s s.i.toNat n x0 y0 cy cx
  · rw [cell_afterDraw_of_covers (by simpa using hc), cell_afterDraw_of_covers hc, Bool.not_not]
  · rw [cell_afterDraw_of_not_covers (by simpa using hc), cell_afterDraw_of_not_covers hc]

/-- The second DRW hits exactly the covered cells that were 0 before the first, which the first turned to 1 (R241). -/
theorem hit_afterDraw_iff :
    (∃ cy cx, Covers (afterDraw s n x0 y0) (afterDraw s n x0 y0).i.toNat n x0 y0 cy cx ∧
      (afterDraw s n x0 y0).cell cy cx = true) ↔
    ∃ cy cx, Covers s s.i.toNat n x0 y0 cy cx ∧ s.cell cy cx = false := by
  simp only [afterDraw_i, covers_afterDraw]
  refine exists₂_congr fun cy cx => and_congr_right fun hc => ?_
  rw [cell_afterDraw_of_covers hc, Bool.not_eq_true']

/-! ### The obligations -/

/-- Settles O33: CLS is the advance and the arbiter's clear. -/
theorem clearMakesEveryCellZero : Obligations.ClearMakesEveryCellZero :=
  fun s => ⟨_, rfl, viewCell_clearDisp s.advance, rfl, changesOnly_advance_clearDisp s⟩

/-- Settles O36: the first DRW leaves all that the second reads but the cells it inverted; inverting them again
restores them, and those that were 0 are the ones the second finds at 1. -/
theorem drawTwiceRestoresDisplay : Obligations.DrawTwiceRestoresDisplay := by
  intro s x y n a b hx hy hrows hcells
  have h : Draws s x y n a b := ⟨hx, hy, hrows, hcells⟩
  refine ⟨_, exec_drw_of_draws h, fun h15 => (viewV_afterDraw_of_ne h15).trans hx,
    fun h15 => (viewV_afterDraw_of_ne h15).trans hy, fun htx hty => ?_⟩
  refine ⟨_, exec_drw_of_draws (draws_afterDraw h htx hty), fun _ _ => cell_afterDraw_twice, fun hz => ?_, fun hz => ?_⟩
  · exact viewV_afterDraw_of_hit (hit_afterDraw_iff.2 hz)
  · exact viewV_afterDraw_of_no_hit (mt hit_afterDraw_iff.1 hz)

end Sys2Proof.Proofs.Display
end

section
/-! The mode event and Keys through a pass (R289, R290, R301): the start of the pass writes both, and neither the timer
clock nor the cycle does. -/

namespace Sys2Proof.Proofs.ModeEvents

open Sys2Proof Sys2Proof.Machine

variable {s t : State} (p : PassInput)

/-! ### What the start of a pass writes -/

@[simp] theorem keys_begun : (s.begun p).keys = p.keysIn :=
  (State.takeEvent_keys ..).trans (State.sample_keys ..)

@[simp] theorem mode_begun : (s.begun p).mode = targetMode s.mode p.event :=
  takeEvent_mode p.event

/-! ### What the clocks keep -/

/-- By which clocks ran: the cycle keeps Keys and the mode, and so does the timer clock on either side of it. -/
theorem step_keeps_begun (h : step s = .next t) :
    t.keys = (s.popInput.begun s.nextInput).keys ∧ t.mode = (s.popInput.begun s.nextInput).mode := by
  obtain ⟨-, rfl⟩ | ⟨-, ⟨u, hu, rfl⟩ | ⟨u, hu, rfl⟩⟩ := step_next h
  · exact ⟨State.timerClock_keys .., State.timerClock_mode ..⟩
  all_goals
    obtain ⟨hkeys, hmode, -⟩ := hu.keeps
    simp [hkeys, hmode]

theorem step_keys (h : step s = .next t) : t.keys = s.nextInput.keysIn :=
  (step_keeps_begun h).1.trans (keys_begun _)

theorem step_mode (h : step s = .next t) : t.mode = targetMode s.mode s.nextInput.event :=
  (step_keeps_begun h).2.trans (mode_begun _)

/-! ### The obligation -/

/-- Settles O47: the pass starts with Keys from the port and the mode its event names, and its clocks keep both. -/
theorem modeEventsSetMode : Obligations.ModeEventsSetMode := by
  intro s t h
  refine ⟨step_keys h, ?_⟩
  rw [step_mode h]
  cases s.nextInput.event <;> rfl

end Sys2Proof.Proofs.ModeEvents
end

section
/-! Encoding and decoding (R89, R100 to R112): the fields of an encoded word, and the decoder and the encoder as
inverses of each other. -/

namespace Sys2Proof.Proofs.Encoding

open Sys2Proof Sys2Proof.Proofs.OpcodeRows

variable {w : Word} {i : Instr} {op n : BitVec 4} {x y : Reg} {b : Byte} {a : BitVec 12}

/-! ### The fields of an encoded word -/

@[simp] theorem opOf_encAddr : opOf (encAddr op a) = op := BitVec.extractLsb'_append_eq_left

@[simp] theorem addrOf_encAddr : addrOf (encAddr op a) = a := BitVec.extractLsb'_append_eq_right

@[simp] theorem opOf_encXByte : opOf (encXByte op x b) = op :=
  (BitVec.extractLsb'_append_eq_of_le (by decide)).trans BitVec.extractLsb'_append_eq_left

@[simp] theorem xOf_encXByte : xOf (encXByte op x b) = x :=
  congrArg BitVec.toFin ((BitVec.extractLsb'_append_eq_of_le (by decide)).trans BitVec.extractLsb'_append_eq_right)

@[simp] theorem byteOf_encXByte : byteOf (encXByte op x b) = b := BitVec.extractLsb'_append_eq_right

@[simp] theorem opOf_encXYN : opOf (encXYN op x y n) = op :=
  (BitVec.extractLsb'_append_eq_of_le (by decide)).trans <|
    (BitVec.extractLsb'_append_eq_of_le (by decide)).trans BitVec.extractLsb'_append_eq_left

@[simp] theorem xOf_encXYN : xOf (encXYN op x y n) = x :=
  congrArg BitVec.toFin <| (BitVec.extractLsb'_append_eq_of_le (by decide)).trans <|
    (BitVec.extractLsb'_append_eq_of_le (by decide)).trans BitVec.extractLsb'_append_eq_right

@[simp] theorem yOf_encXYN : yOf (encXYN op x y n) = y :=
  congrArg BitVec.toFin ((BitVec.extractLsb'_append_eq_of_le (by decide)).trans BitVec.extractLsb'_append_eq_right)

@[simp] theorem nOf_encXYN : nOf (encXYN op x y n) = n := BitVec.extractLsb'_append_eq_right

/-! ### Decoding an encoded instruction -/

theorem decodeWord_encode (h : WellFormed i) : decodeWord (encode i) = some i := by
  cases i with
  | cls | ret => rfl
  | jp | call | ldI | jpV0 => simp [encode, decodeWord]
  | seByte | sneByte | ldByte | addByte | rnd => simp [encode, decodeWord]
  | seReg | sneReg => simp [encode, decodeWord]
  | ldReg | orReg | andReg | xorReg | addReg | subReg | shr | subnReg | shl => simp [encode, decodeWord, decode8]
  | drw x y n =>
    have hn : n < 16 := of_decide_eq_true h
    simp [encode, decodeWord, hn]
  | skp | sknp => simp [encode, decodeWord, decodeE]
  | ldVxDT | ldVxK | ldDTVx | ldSTVx | addI | ldF | ldB | ldMemVx | ldVxMem => simp [encode, decodeWord, decodeF]

/-! ### What the decoder answers is well formed -/

/-- A word of DRW's row has 0xD as its op, and the count is then its low nibble. -/
theorem drw_count_lt {m : Nat} (h : decodeWord w = some (.drw x y m)) : m < 16 := by
  obtain ⟨-, hrow⟩ := matchesRow_of_decodeWord h
  have hop : opOf w = 0xD#4 := extractLsb'_of_matchesRow hrow rfl
  rw [decodeWord, hop] at h
  cases h
  exact (nOf w).isLt

theorem wellFormed_of_decodeWord (h : decodeWord w = some i) : WellFormed i := by
  cases i with
  | drw x y m => exact decide_eq_true (drw_count_lt h)
  | _ => rfl

/-! ### Bytes -/

theorem wordOfBytes_bytesOfWord (w : Word) : wordOfBytes (w.extractLsb' 8 8) (w.extractLsb' 0 8) = w :=
  BitVec.extractLsb'_append_extractLsb'

theorem decodeBytes_of_decodeWord {rest : List Byte} (h : decodeWord w = some i) :
    decodeBytes (w.extractLsb' 8 8 :: w.extractLsb' 0 8 :: rest) = .ok (i, rest) := by
  rw [decodeBytes, wordOfBytes_bytesOfWord, h]

theorem decodeTableWord_of_decodeWord (h : decodeWord w = some i) : decodeTableWord 16 w.toNat = some i := by
  have hw : BitVec.ofNat 16 (w.toNat % 2 ^ 16) = w := by
    rw [Nat.mod_eq_of_lt w.isLt, BitVec.ofNat_toNat, BitVec.setWidth_eq]
  rw [decodeTableWord, hw, bytesOfWord, decodeBytes_of_decodeWord h]

/-! ### The obligations -/

/-- Settles O2: each field of the encoded word is the operand it was made of, so the decoder's tests select the
instruction's own arm. -/
theorem decodeOfEncodeIsIdentity : Obligations.DecodeOfEncodeIsIdentity :=
  fun _ => decodeWord_encode

/-- Settles O3: the decoder drops no bit, and the only count it reads is a nibble. -/
theorem encodeOfDecodeIsIdentity : Obligations.EncodeOfDecodeIsIdentity :=
  fun _ _ h => ⟨encode_of_decodeWord h, wellFormed_of_decodeWord h⟩

/-- Settles O1: the nine words are fixed, so the decoder is run on them. -/
theorem sampleWordsDecode : Obligations.SampleWordsDecode := by
  unfold Obligations.SampleWordsDecode
  decide

/-- Settles O5: the two bytes put together again are the word. -/
theorem decodeBytesReadsBigEndianWord : Obligations.DecodeBytesReadsBigEndianWord :=
  fun _ _ _ h => ⟨decodeBytes_of_decodeWord h, decodeTableWord_of_decodeWord h⟩

end Sys2Proof.Proofs.Encoding
end

section
/-! Frames: which parts of the state each operation leaves alone, and how the frames of operations made one after
another compose. -/

namespace Sys2Proof.Proofs.Frames

open Sys2Proof Sys2Proof.Machine

variable {s t u : State} {p : StatePart} {ps : List StatePart}

/-! ### Composing frames -/

theorem keepsPlatform_trans (h₁ : KeepsPlatform s t) (h₂ : KeepsPlatform t u) : KeepsPlatform s u where
  keys         := h₂.keys.trans h₁.keys
  mode         := h₂.mode.trans h₁.mode
  cyclesIssued := h₂.cyclesIssued.trans h₁.cyclesIssued
  clocksIssued := h₂.clocksIssued.trans h₁.clocksIssued
  start        := h₂.start.trans h₁.start
  events       := h₂.events.trans h₁.events
  cfg          := h₂.cfg.trans h₁.cfg
  inputs       := h₂.inputs.trans h₁.inputs
  passes       := h₂.passes.trans h₁.passes
  now          := h₂.now.trans h₁.now
  render       := h₂.render.trans h₁.render
  cycleOk      := h₂.cycleOk.trans h₁.cycleOk

theorem same_refl (s : State) (p : StatePart) : Same s s p := by
  cases p <;> simp [Same]

theorem same_trans (h₁ : Same s t p) (h₂ : Same t u p) : Same s u p := by
  cases p <;> simp_all [Same]

theorem changesOnly_refl (ps : List StatePart) (s : State) : ChangesOnly ps s s :=
  ⟨by constructor <;> rfl, fun p _ => same_refl s p⟩

theorem changesOnly_trans (h₁ : ChangesOnly ps s t) (h₂ : ChangesOnly ps t u) : ChangesOnly ps s u :=
  ⟨keepsPlatform_trans h₁.1 h₂.1, fun p hp => same_trans (h₁.2 p hp) (h₂.2 p hp)⟩

/-- An operation that keeps the platform and every part but `p`, in any frame that `p` is in. -/
theorem changesOnly_of_part (hp : p ∈ ps) (hk : KeepsPlatform s t) (hs : ∀ q, q ≠ p → Same s t q) :
    ChangesOnly ps s t :=
  ⟨hk, fun q hq => hs q fun e => hq (e ▸ hp)⟩

/-! ### The frame of each operation -/

theorem changesOnly_setV (x : Reg) (b : Byte) (h : .v ∈ ps) : ChangesOnly ps s (s.setV x b) :=
  changesOnly_of_part h (by constructor <;> simp) fun q hq => by cases q <;> simp [Same, State.readMem] at hq ⊢

theorem changesOnly_setVUpTo (x : Reg) (f : Nat → Byte) (h : .v ∈ ps) : ChangesOnly ps s (s.setVUpTo x f) :=
  changesOnly_of_part h (by constructor <;> simp) fun q hq => by cases q <;> simp [Same, State.readMem] at hq ⊢

theorem changesOnly_setI (a : Word) (h : .i ∈ ps) : ChangesOnly ps s (s.setI a) :=
  changesOnly_of_part h (by constructor <;> simp) fun q hq => by cases q <;> simp [Same, State.readMem] at hq ⊢

theorem changesOnly_setPc (a : Word) (h : .pc ∈ ps) : ChangesOnly ps s (s.setPc a) :=
  changesOnly_of_part h (by constructor <;> simp) fun q hq => by cases q <;> simp [Same, State.readMem] at hq ⊢

theorem changesOnly_push (a : Word) (h : .stack ∈ ps) : ChangesOnly ps s (s.push a) :=
  changesOnly_of_part h (by constructor <;> simp) fun q hq => by cases q <;> simp [Same, State.readMem] at hq ⊢

theorem changesOnly_pop (h : .stack ∈ ps) : ChangesOnly ps s s.pop :=
  changesOnly_of_part h (by constructor <;> simp) fun q hq => by cases q <;> simp [Same, State.readMem] at hq ⊢

theorem changesOnly_writeBytes (a : Nat) (bs : List Byte) (h : .mem ∈ ps) : ChangesOnly ps s (s.writeBytes a bs) :=
  changesOnly_of_part h (by constructor <;> simp) fun q hq => by cases q <;> simp [Same] at hq ⊢

theorem changesOnly_xorDisp (d : Vector (BitVec 64) 32) (h : .disp ∈ ps) : ChangesOnly ps s (s.xorDisp d) :=
  changesOnly_of_part h (by constructor <;> simp) fun q hq => by cases q <;> simp [Same, State.readMem] at hq ⊢

theorem changesOnly_countDraw (h : .draws ∈ ps) : ChangesOnly ps s s.countDraw :=
  changesOnly_of_part h (by constructor <;> simp) fun q hq => by cases q <;> simp [Same, State.readMem] at hq ⊢

/-! ### Operations made of others -/

theorem changesOnly_advance (h : .pc ∈ ps) : ChangesOnly ps s s.advance :=
  changesOnly_setPc _ h

theorem changesOnly_writeAlu (x : Reg) (o : AluOut) (h : .v ∈ ps) : ChangesOnly ps s (s.writeAlu x o) := by
  unfold State.writeAlu
  split
  · exact changesOnly_setV _ _ h
  · exact changesOnly_trans (changesOnly_setV _ _ h) (changesOnly_setV _ _ h)

theorem changesOnly_bumpI (x : Reg) (h : .i ∈ ps) : ChangesOnly ps s (s.bumpI x) := by
  unfold State.bumpI
  split
  · exact changesOnly_setI _ h
  · exact changesOnly_refl _ _

end Sys2Proof.Proofs.Frames
end

section
/-! Register loads and the ALU (R181 to R194, R250): what a write of the ALU's outputs leaves, the outputs as
arithmetic, and each instruction as one such write. -/

namespace Sys2Proof.Proofs.Alu

open Sys2Proof Sys2Proof.Machine Sys2Proof.Proofs.Frames

variable {s : State} {f : AluFn} {x y : Reg} {a b fl : Byte} {o : AluOut}

/-! ### What the write of the ALU's outputs leaves -/

theorem viewV_writeAlu_of_noFlag (h : o.flag = none) : (s.writeAlu x o).viewV x = some o.result := by
  simp [State.writeAlu, h]

theorem viewV_writeAlu_of_ne (h : o.flag = some fl) (hx : x ≠ 15) : (s.writeAlu x o).viewV x = some o.result := by
  simp [State.writeAlu, h, hx.symm]

theorem viewV_writeAlu_flag (h : o.flag = some fl) : (s.writeAlu x o).viewV 15 = some fl := by
  simp [State.writeAlu, h]

theorem keepsRegsBut_setV (s : State) (x : Reg) (b : Byte) : KeepsRegsBut [x] s (s.setV x b) := by
  intro z hz
  have hxz : x ≠ z := fun e => hz (by simp [e])
  rw [State.getV_setV, State.vUnwritten_setV_get, if_neg hxz, if_neg hxz]
  exact ⟨rfl, rfl⟩

theorem keepsRegsBut_writeAlu (s : State) (x : Reg) (o : AluOut) : KeepsRegsBut [x, 15] s (s.writeAlu x o) := by
  intro z hz
  simp only [List.mem_cons, List.not_mem_nil, or_false, not_or] at hz
  exact State.writeAlu_other s o (Ne.symm hz.1) hz.2

/-- A write of a flagless result is a write of V[x] alone. -/
theorem writesRegs_writeAlu_of_noFlag (h : o.flag = none) : WritesRegs [x] s (s.advance.writeAlu x o) := by
  refine ⟨State.writeAlu_pc .., ?_,
    changesOnly_trans (changesOnly_advance (by simp)) (changesOnly_writeAlu _ _ (by simp))⟩
  rw [State.writeAlu, h]
  exact keepsRegsBut_setV s.advance x _

theorem writesRegs_writeAlu (s : State) (x : Reg) (o : AluOut) : WritesRegs [x, 15] s (s.advance.writeAlu x o) :=
  ⟨State.writeAlu_pc .., keepsRegsBut_writeAlu s.advance x o,
    changesOnly_trans (changesOnly_advance (by simp)) (changesOnly_writeAlu _ _ (by simp))⟩

/-! ### The two forms of a completed ALU instruction -/

/-- The instruction completes with `r` in V[x], and writes no other register. -/
def LoadsResult (out : Result) (s : State) (x : Reg) (r : Byte) : Prop :=
  ∃ t, out = .next t ∧ t.viewV x = some r ∧ WritesRegs [x] s t

/-- The instruction completes with `r` in V[x], and then `fl` in VF (R181). -/
def LoadsFlagged (out : Result) (s : State) (x : Reg) (r fl : Byte) : Prop :=
  ∃ t, out = .next t ∧ (x ≠ 15 → t.viewV x = some r) ∧ t.viewV 15 = some fl ∧ WritesRegs [x, 15] s t

theorem loadsResult_writeAlu (h : o.flag = none) :
    LoadsResult (.next (s.advance.writeAlu x o)) s x o.result :=
  ⟨_, rfl, viewV_writeAlu_of_noFlag h, writesRegs_writeAlu_of_noFlag h⟩

theorem loadsFlagged_writeAlu (h : o.flag = some fl) :
    LoadsFlagged (.next (s.advance.writeAlu x o)) s x o.result fl :=
  ⟨_, rfl, viewV_writeAlu_of_ne h, viewV_writeAlu_flag h, writesRegs_writeAlu s x o⟩

theorem aluRegs_of_view (hx : s.viewV x = some a) (hy : s.viewV y = some b) :
    aluRegs f x y s = .next (s.advance.writeAlu x (alu s.cfg.quirks.vfReset f a b)) := by
  rw [aluRegs, withV_of_view hx, withV_of_view hy]

theorem aluOne_of_view (hx : s.viewV x = some a) :
    aluOne f x b s = .next (s.advance.writeAlu x (alu s.cfg.quirks.vfReset f a b)) := by
  rw [aluOne, withV_of_view hx]

/-! ### The ALU's outputs as arithmetic -/

theorem add_eq_ofNat (a b : Byte) : a + b = BitVec.ofNat 8 ((a.toNat + b.toNat) % 256) := by
  apply BitVec.eq_of_toNat_eq
  rw [BitVec.toNat_add, BitVec.toNat_ofNat, Nat.mod_mod]

theorem sub_eq_ofNat (a b : Byte) :
    a - b = BitVec.ofNat 8 (if b.toNat ≤ a.toNat then a.toNat - b.toNat else a.toNat + 256 - b.toNat) := by
  apply BitVec.eq_of_toNat_eq
  rw [BitVec.toNat_sub, BitVec.toNat_ofNat]
  split <;> omega

theorem shr_eq_ofNat (a : Byte) : a >>> 1 = BitVec.ofNat 8 (a.toNat / 2) := by
  apply BitVec.eq_of_toNat_eq
  rw [BitVec.toNat_ushiftRight, BitVec.toNat_ofNat, Nat.shiftRight_one]
  omega

theorem shl_eq_ofNat (a : Byte) : a <<< 1 = BitVec.ofNat 8 (a.toNat * 2 % 256) := by
  apply BitVec.eq_of_toNat_eq
  rw [BitVec.toNat_shiftLeft, BitVec.toNat_ofNat, Nat.shiftLeft_eq, pow_one, Nat.mod_mod]

theorem flagByte_decide (p : Prop) [Decidable p] : flagByte (decide p) = if p then 1 else 0 := by
  by_cases h : p <;> simp [flagByte, h]

/-- A flag that is a bit of the operand, as a number: bit `k` of `a` is `a / 2^k mod 2`. -/
theorem flagByte_getLsbD (a : Byte) (k : Nat) : flagByte (a.getLsbD k) = BitVec.ofNat 8 (a.toNat / 2 ^ k % 2) := by
  rw [BitVec.getLsbD, Nat.testBit_eq_decide_div_mod_eq, flagByte_decide]
  split
  · rw [‹a.toNat / 2 ^ k % 2 = 1›]
    rfl
  · rw [Nat.mod_two_ne_one.1 ‹_›]
    rfl

theorem lsb_eq_ofNat (a : Byte) : flagByte (a.getLsbD 0) = BitVec.ofNat 8 (a.toNat % 2) := by
  rw [flagByte_getLsbD, pow_zero, Nat.div_one]

theorem msb_eq_ofNat (a : Byte) : flagByte (a.getLsbD 7) = BitVec.ofNat 8 (a.toNat / 128) := by
  have := a.isLt
  rw [flagByte_getLsbD, Nat.mod_eq_of_lt (by omega)]
  rfl

/-! ### The obligations -/

/-- Settles O14: each of the loads is a flagless write of the ALU. -/
theorem registerLoads : Obligations.RegisterLoads := by
  intro s x y byte b
  refine ⟨loadsResult_writeAlu rfl, fun hy => ?_, loadsResult_writeAlu (o := ⟨s.dt, none⟩) rfl⟩
  rw [exec, execLdReg, withV_of_view hy]
  exact loadsResult_writeAlu rfl

/-- Settles O15: the immediate add is a flagless write of the ALU. -/
theorem addImmediateWritesNoFlag : Obligations.AddImmediateWritesNoFlag := by
  intro s x byte a hx
  rw [exec, execAddByte, aluOne_of_view hx, ← add_eq_ofNat]
  exact loadsResult_writeAlu rfl

/-- Settles O16: the flag of the add is its carry. -/
theorem addRegistersSetsCarry : Obligations.AddRegistersSetsCarry := by
  intro s x y a b hx hy
  rw [exec, execAddReg, aluRegs_of_view hx hy, ← add_eq_ofNat, ← flagByte_decide]
  exact loadsFlagged_writeAlu rfl

/-- Settles O18: SUBN is SUB with its operands exchanged. -/
theorem subtractionsSetNoBorrow : Obligations.SubtractionsSetNoBorrow := by
  intro s x y a b hx hy
  rw [exec, exec, execSubReg, execSubnReg, aluRegs_of_view hx hy, aluRegs_of_view hx hy, ← sub_eq_ofNat,
    ← sub_eq_ofNat, ← flagByte_decide, ← flagByte_decide]
  exact ⟨loadsFlagged_writeAlu rfl, loadsFlagged_writeAlu rfl⟩

/-- Settles O19: the shifts read V[x] alone, and their flag is its lowest or its highest bit. -/
theorem shiftsSetBitShiftedOut : Obligations.ShiftsSetBitShiftedOut := by
  intro s x y a hx
  rw [exec, exec, execShr, execShl, aluOne_of_view hx, aluOne_of_view hx, ← shr_eq_ofNat, ← shl_eq_ofNat,
    ← lsb_eq_ofNat, ← msb_eq_ofNat]
  exact ⟨loadsFlagged_writeAlu rfl, loadsFlagged_writeAlu rfl⟩

/-- One of OR, AND and XOR: an ALU function whose flag is the one of the logic instructions. -/
theorem logicInstruction (hx : s.viewV x = some a) (hy : s.viewV y = some b) {op : Bool → Bool → Bool} {r : Byte}
    (hf : alu s.cfg.quirks.vfReset f a b = ⟨r, logicFlag s.cfg.quirks.vfReset⟩)
    (hr : ∀ k, r.getLsbD k = op (a.getLsbD k) (b.getLsbD k)) :
    ∃ t r, aluRegs f x y s = .next t ∧ (∀ k < 8, r.getLsbD k = op (a.getLsbD k) (b.getLsbD k)) ∧
      (s.cfg.quirks.vfReset = true →
        t.viewV 15 = some 0 ∧ (x ≠ 15 → t.viewV x = some r) ∧ WritesRegs [x, 15] s t) ∧
      (s.cfg.quirks.vfReset = false → t.viewV x = some r ∧ WritesRegs [x] s t) := by
  rw [aluRegs_of_view hx hy, hf]
  refine ⟨_, r, rfl, fun k _ => hr k, fun hq => ?_, fun hq => ?_⟩
  · have hfl : logicFlag s.cfg.quirks.vfReset = some 0 := by rw [hq]; rfl
    exact ⟨viewV_writeAlu_flag hfl, viewV_writeAlu_of_ne hfl, writesRegs_writeAlu ..⟩
  · have hfl : logicFlag s.cfg.quirks.vfReset = none := by rw [hq]; rfl
    exact ⟨viewV_writeAlu_of_noFlag hfl, writesRegs_writeAlu_of_noFlag hfl⟩

/-- Settles O17: the three operations of `BitVec` are bit by bit. -/
theorem logicInstructions : Obligations.LogicInstructions := by
  intro s x y a b hx hy p hp
  simp only [List.mem_cons, List.not_mem_nil, or_false] at hp
  obtain rfl | rfl | rfl := hp
  · exact logicInstruction (f := .or) hx hy rfl fun _ => BitVec.getLsbD_or
  · exact logicInstruction (f := .and) hx hy rfl fun _ => BitVec.getLsbD_and
  · exact logicInstruction (f := .xor) hx hy rfl fun _ => BitVec.getLsbD_xor

/-- Settles O20: RND is a flagless write of the ALU's AND after the draw is counted. -/
theorem randomByteIsMasked : Obligations.RandomByteIsMasked := by
  intro s x byte
  refine ⟨s.advance.countDraw.setV x (Config.randomByte s.draws &&& byte), _, rfl, rfl, ?_, rfl, rfl,
    keepsRegsBut_setV s.advance.countDraw x _, ?_⟩
  · rw [State.viewV_setV, if_pos rfl]
  · exact changesOnly_trans (changesOnly_advance (by simp)) <|
      changesOnly_trans (changesOnly_countDraw (by simp)) (changesOnly_setV _ _ (by simp))

end Sys2Proof.Proofs.Alu
end

section
/-! Skips, CALL, RET, the timer loads and the keypad (R160 to R167, R250 to R256, R274, R275, R277). -/

namespace Sys2Proof.Proofs.Control

open Sys2Proof Sys2Proof.Machine Sys2Proof.Proofs.Frames Sys2Proof.Proofs.Jumps

variable {s : State} {x : Reg} {k : Fin 16} {a b : Word}

/-! ### The stack pointer and the slots -/

theorem sp_push_val (h : s.sp.val < 15) : (s.push a).sp.val = s.sp.val + 1 := by
  rw [State.push_sp]
  omega

theorem sp_pop_val (h : s.sp ≠ 0) : s.pop.sp.val + 1 = s.sp.val := by
  rw [State.pop_sp]
  omega

theorem push_slot_of_ne (h : k ≠ (s.push a).sp) :
    (s.push a).stack[k] = s.stack[k] ∧ (s.push a).stackUnwritten[k] = s.stackUnwritten[k] := by
  have hk : (s.sp + 1).val ≠ k.val := fun e => h (Fin.ext e.symm)
  exact ⟨Vector.getElem_set_ne (s.sp + 1).isLt k.isLt hk, Vector.getElem_set_ne (s.sp + 1).isLt k.isLt hk⟩

/-- Settles O22: below 15 the CALL is the advance, the push of the advanced pc and the jump. -/
theorem callPushesReturnAddress : Obligations.CallPushesReturnAddress := by
  intro s addr hsp
  have hsp' := sp_push_val (s := s.advance) (a := adv s.pc) hsp
  refine ⟨_, exec_call_of_sp_ne (by omega), hsp', ?_, fun k hk => ?_, fun k hk => ?_, ?_⟩
  · exact BitVec.toNat_setWidth_of_le (by decide)
  · obtain rfl : k = (s.advance.push (adv s.pc)).sp := Fin.ext (hk.trans hsp'.symm)
    exact viewStack_push_top s.advance (adv s.pc)
  · exact push_slot_of_ne (s := s.advance) fun e => hk (e ▸ hsp')
  · exact changesOnly_trans (changesOnly_advance (by simp)) <|
      changesOnly_trans (changesOnly_push _ (by simp)) (changesOnly_setPc _ (by simp))

/-- Settles O23: above 0 the RET is the advance, the pop and the jump. -/
theorem returnPopsReturnAddress : Obligations.ReturnPopsReturnAddress := by
  intro s a hsp ha
  have h0 : s.sp ≠ 0 := by omega
  refine ⟨_, exec_ret_of_view h0 ha, rfl, sp_pop_val (s := s.advance) h0, rfl, rfl, ?_⟩
  exact changesOnly_trans (changesOnly_advance (by simp)) <|
    changesOnly_trans (changesOnly_pop (by simp)) (changesOnly_setPc _ (by simp))

/-- Settles O26: of the updates an instruction can be, only the push and the pop move sp. -/
theorem stackPointerMovesByOne : Obligations.StackPointerMovesByOne := by
  intro i s t h
  cases exec_effect h with
  | raise h => obtain ⟨c, rfl, -⟩ := h; exact .inl rfl
  | @call addr hsp =>
    have hlt : s.advance.sp.val < 15 := by rw [State.advance_sp]; omega
    exact .inr (.inl ⟨addr, rfl, sp_push_val (a := s.advance.pc) hlt⟩)
  | ret hsp => exact .inr (.inr ⟨rfl, sp_pop_val (s := s.advance) hsp⟩)
  | _ => exact .inl (by simp)

/-! ### Skips -/

theorem skipIf_eq_of_iff {p : Bool} {q : Prop} [Decidable q] (h : p = true ↔ q) :
    s.advance.skipIf p = { s with pc := if q then adv (adv s.pc) else adv s.pc } := by
  rw [State.skipIf_eq]
  simp only [h]

/-- Settles O25: once the operands are read, the instruction is the advance and the skip. -/
theorem skipInstructions : Obligations.SkipInstructions := by
  intro s x y byte a b hx
  refine ⟨?_, ?_, fun hy => ⟨?_, ?_⟩⟩
  · rw [exec, execSeByte, withV_of_view hx, skipIf_eq_of_iff decide_eq_true_iff]
  · rw [exec, execSneByte, withV_of_view hx, skipIf_eq_of_iff decide_eq_true_iff]
  · rw [exec, execSeReg, withV_of_view hx, withV_of_view hy, skipIf_eq_of_iff decide_eq_true_iff]
  · rw [exec, execSneReg, withV_of_view hx, withV_of_view hy, skipIf_eq_of_iff decide_eq_true_iff]

/-! ### Timers and keypad -/

/-- Settles O37: once V[x] is read, the instruction is the advance and the write of its timer. -/
theorem timerLoads : Obligations.TimerLoads := by
  intro s x a hx
  rw [exec, exec, execLdDTVx, execLdSTVx, withV_of_view hx, withV_of_view hx]
  exact ⟨rfl, rfl⟩

theorem withKey_of_view {a : Byte} {go : Nat → Result} (hx : s.viewV x = some a) (ha : a.toNat ≤ 0xF) :
    withKey x s go = go a.toNat := by
  rw [withKey, withV_of_view hx, if_neg (by omega)]

theorem withKey_raises {a : Byte} {go : Nat → Result} (hx : s.viewV x = some a) (ha : 0xF < a.toNat) :
    withKey x s go = .next (s.raise (.keyIndexOutOfRange a)) := by
  rw [withKey, withV_of_view hx, if_pos ha, raised]

/-- Settles O39: the key number is in range, so the instruction is the advance and the skip. -/
theorem skipOnKey : Obligations.SkipOnKey := by
  intro s x a hx ha
  constructor
  · rw [exec, execSkp, withKey_of_view hx ha, State.skipIf_eq]
  · rw [exec, execSknp, withKey_of_view hx ha, State.skipIf_eq]
    cases s.keyHeld a.toNat <;> rfl

/-- Settles O40: each limit is tested before anything is changed. -/
theorem stackAndKeyLimitsFault : Obligations.StackAndKeyLimitsFault := by
  intro s addr x a
  refine ⟨fun h => if_pos (Fin.ext h), fun h => if_pos (Fin.ext h), fun hx ha => ⟨?_, ?_⟩⟩
  · rw [RaisesAt, exec, execSkp, withKey_raises hx ha]
    rfl
  · rw [RaisesAt, exec, execSknp, withKey_raises hx ha]
    rfl

/-- The key LD Vx,K loads. -/
def pickedKey (s : State) : Reg := pickKey (Config.keyPick s.draws) (heldKeys s.keys)

theorem exec_ldVxK_of_none_held (h : s.keys = 0#16) : exec (.ldVxK x) s = .next s := by
  rw [exec, execLdVxK, if_pos h]
  rfl

theorem exec_ldVxK_of_held (h : s.keys ≠ 0#16) :
    exec (.ldVxK x) s = .next (s.advance.countDraw.setV x (BitVec.ofNat 8 (pickedKey s).val)) := by
  rw [exec, execLdVxK, if_neg h]
  rfl

theorem keyHeld_pickedKey (h : s.keys ≠ 0#16) : s.keyHeld (pickedKey s).val = true :=
  mem_heldKeys.1 (pickKey_mem _ (heldKeys_ne_nil h))

/-- Settles O38: with no key held, the advance is taken back; else the pick is a held key, so the only one if there is
one. -/
theorem waitForKey : Obligations.WaitForKey := by
  intro s x
  refine ⟨exec_ldVxK_of_none_held, fun h => ?_⟩
  refine ⟨_, (pickedKey s).val, exec_ldVxK_of_held h, (pickedKey s).isLt, keyHeld_pickedKey h, ?_, rfl,
    Alu.keepsRegsBut_setV s.advance.countDraw x _, ?_, fun j hj => ?_⟩
  · rw [State.viewV_setV, if_pos rfl]
  · exact changesOnly_trans (changesOnly_advance (by simp)) <|
      changesOnly_trans (changesOnly_countDraw (by simp)) (changesOnly_setV _ _ (by simp))
  · rw [(hj _).1 (keyHeld_pickedKey h)]

end Sys2Proof.Proofs.Control
end

section
/-! I and memory (R87, R209 to R216), and the draw of a sprite (R232 to R239): what each instruction stores or loads,
its frame, and its fault when a byte is out of range. -/

namespace Sys2Proof.Proofs.Store

open Sys2Proof Sys2Proof.Machine Sys2Proof.Proofs.Frames Sys2Proof.Proofs.IndexMemory

variable {s : State} {x y k : Reg} {i : Word} {n : Nat} {a b : Byte}

/-! ### Loads of I -/

theorem add_setWidth_eq_ofNat (i : Word) (a : Byte) :
    i + a.setWidth 16 = BitVec.ofNat 16 ((i.toNat + a.toNat) % 65536) := by
  apply BitVec.eq_of_toNat_eq
  rw [BitVec.toNat_add, BitVec.toNat_setWidth_of_le (by decide), BitVec.toNat_ofNat, Nat.mod_mod]

/-- The instruction completes with `v` in I, and changes pc besides. -/
theorem loads_setI (s : State) (v : Word) : ∃ t, (.next (s.advance.setI v) : Result) = .next t ∧
    t.viewI = some v ∧ t.pc = adv s.pc ∧ ChangesOnly [.i, .pc] s t :=
  ⟨_, rfl, rfl, rfl, changesOnly_trans (changesOnly_advance (by simp)) (changesOnly_setI _ (by simp))⟩

/-- Settles O27: once the operands are read, the instruction is the advance and the write of I. -/
theorem addressRegisterLoads : Obligations.AddressRegisterLoads := by
  intro s x addr i a
  refine ⟨?_, fun hI hx => ?_, fun hx => ?_⟩
  · rw [exec, execLdI, ← BitVec.ofNat_toNat]
    exact loads_setI ..
  · rw [exec, execAddI, withI_of_view hI, withV_of_view hx, add_setWidth_eq_ofNat]
    exact loads_setI ..
  · rw [exec, execLdF, withV_of_view hx]
    exact loads_setI ..

/-! ### The decimal digits -/

theorem exec_ldB_of_view (hx : s.viewV x = some a) (hI : s.viewI = some i) (hr : InRange i.toNat 3) :
    exec (.ldB x) s = .next (s.advance.writeBytes i.toNat (digits a)) := by
  rw [exec, execLdB, withV_of_view hx, withI_of_view hI, withRange_of_inRange (.inr hr)]

theorem readMem_writeBytes_add {bs : List Byte} {base j : Nat} (hj : j < bs.length) :
    (s.writeBytes base bs).readMem (base + j) = bs[j] := by
  rw [State.readMem_writeBytes, dif_pos ⟨Nat.le_add_right _ _, by omega⟩]
  simp only [Nat.add_sub_cancel_left]

/-- Settles O28: the digits are below 256, so the bytes stored are the digits themselves. -/
theorem decimalDigitsAreStored : Obligations.DecimalDigitsAreStored := by
  intro s x i v hx hI hr
  have hv := v.isLt
  have digit (j : Nat) (hj : j < 3) :
      ((s.advance.writeBytes i.toNat (digits v)).readMem (i.toNat + j)).toNat = (digits v)[j].toNat :=
    congrArg BitVec.toNat (readMem_writeBytes_add hj)
  refine ⟨_, exec_ldB_of_view hx hI hr, (digit 0 (by decide)).trans ?_, (digit 1 (by decide)).trans ?_,
    (digit 2 (by decide)).trans ?_, fun a ha => ?_, State.writeBytes_pc .., ?_⟩
  · exact Nat.mod_eq_of_lt (by omega)
  · exact Nat.mod_eq_of_lt (by omega)
  · exact Nat.mod_eq_of_lt (by omega)
  · exact State.readMem_writeBytes_outside s.advance ha
  · exact changesOnly_trans (changesOnly_advance (by simp)) (changesOnly_writeBytes _ _ (by simp))

/-! ### LD [I],Vx and LD Vx,[I] -/

/-- I after the increment of R216, the quirk on or off. -/
theorem viewI_bumpI (hI : s.viewI = some i) : (s.bumpI x).viewI =
    some (if s.cfg.quirks.memory then BitVec.ofNat 16 ((i.toNat + x.val + 1) % 65536) else i) := by
  cases hm : s.cfg.quirks.memory with
  | false => exact (viewI_bumpI_of_memory_false hm).trans hI
  | true =>
    have hmod : BitVec.ofNat 16 ((i.toNat + x.val + 1) % 65536) = BitVec.ofNat 16 (i.toNat + (x.val + 1)) :=
      BitVec.eq_of_toNat_eq (Nat.mod_mod _ _)
    rw [if_pos rfl, hmod]
    exact viewI_bumpI_of_memory_true hI hm

/-- Settles O29: the store is the advance, the write of the bytes and the increment of I. -/
theorem registersAreStored : Obligations.RegistersAreStored := by
  intro s x i hI hV hr
  refine ⟨_, exec_ldMemVx_of_view hI hV hr, fun k => readMem_afterStore_of_le, fun a => readMem_afterStore_outside,
    ?_, ?_, ?_⟩
  · rw [afterStore, viewI_bumpI ((viewI_advance_writeBytes ..).trans hI), State.writeBytes_cfg, State.advance_cfg]
  · rw [afterStore, State.bumpI_pc, State.writeBytes_pc, State.advance_pc]
  · exact changesOnly_trans (changesOnly_advance (by simp)) <|
      changesOnly_trans (changesOnly_writeBytes _ _ (by simp)) (changesOnly_bumpI _ (by simp))

theorem afterLoad_of_lt (hk : x < k) :
    (afterLoad s x i).getV k = s.getV k ∧ (afterLoad s x i).vUnwritten[k] = s.vUnwritten[k] := by
  rw [afterLoad, State.getV_bumpI, State.getV_setVUpTo, State.bumpI_vUnwritten, State.vUnwritten_setVUpTo_get,
    if_neg (not_le.2 hk), if_neg (not_le.2 hk)]
  exact ⟨rfl, rfl⟩

/-- Settles O30: the load is the advance, the write of the registers up to V[x] and the increment of I. -/
theorem registersAreLoaded : Obligations.RegistersAreLoaded := by
  intro s x i hI hr
  refine ⟨_, exec_ldVxMem_of_view hI hr, fun k => viewV_afterLoad_of_le, fun k => afterLoad_of_lt, ?_, ?_, ?_⟩
  · rw [afterLoad, viewI_bumpI ((viewI_advance_setVUpTo ..).trans hI), State.setVUpTo_cfg, State.advance_cfg]
  · rw [afterLoad, State.bumpI_pc, State.setVUpTo_pc, State.advance_pc]
  · exact changesOnly_trans (changesOnly_advance (by simp)) <|
      changesOnly_trans (changesOnly_setVUpTo _ _ (by simp)) (changesOnly_bumpI _ (by simp))

/-! ### Accesses out of range -/

theorem withRange_raises_of_not_inRange {base : Nat} {go : Result} (h0 : n ≠ 0) (h : ¬ InRange base n) :
    withRange base n s go = .next (s.raise (.memoryOutOfRange (max base memSize))) :=
  withRange_raises h0 (not_le.1 h)

/-- Settles O32: the check comes after the reads and before anything is changed. -/
theorem dataAccessOutOfRangeFaults : Obligations.DataAccessOutOfRangeFaults := by
  intro s x y n i a b hI
  refine ⟨fun hx hr => ?_, fun hV hr => ?_, fun hr => ?_, fun hx hy hn hr => ?_⟩ <;> rw [RaisesAt, exec]
  · rw [execLdB, withV_of_view hx, withI_of_view hI, withRange_raises_of_not_inRange (by decide) hr]
    rfl
  · rw [execLdMemVx, withI_of_view hI, withVUpTo_of_written hV, withRange_raises_of_not_inRange (by omega) hr]
    rfl
  · rw [execLdVxMem, withI_of_view hI, withRange_raises_of_not_inRange (by omega) hr]
    rfl
  · rw [execDrw, withV_of_view hx, withV_of_view hy, withSpriteBase, if_neg hn.ne', withI_of_view hI,
      withRange_raises_of_not_inRange hn.ne' hr]
    rfl

/-! ### DRW -/

open Sys2Proof.Proofs.Display

theorem changesOnly_afterDraw (s : State) (n x0 y0 : Nat) : ChangesOnly [.v, .disp, .pc] s (afterDraw s n x0 y0) :=
  changesOnly_trans (changesOnly_advance (by simp)) <|
    changesOnly_trans (changesOnly_xorDisp _ (by simp)) (changesOnly_setV _ _ (by simp))

/-- Settles O34: DRW is the advance, the XOR with the sprite's pattern and the write of VF. -/
theorem drawInvertsCoveredCells : Obligations.DrawInvertsCoveredCells := by
  intro s x y n a b hx hy hrows hcells
  exact ⟨_, exec_drw_of_draws ⟨hx, hy, hrows, hcells⟩, fun _ _ => cell_afterDraw_of_covers,
    fun _ _ => cell_afterDraw_of_not_covers, viewV_afterDraw_of_hit, viewV_afterDraw_of_no_hit,
    afterDraw_dispUnwritten, rfl, Alu.keepsRegsBut_setV (s.advance.xorDisp _) 15 _, changesOnly_afterDraw ..⟩

/-- The first unwritten cell that the sprite reads, in the words of R236. -/
theorem firstUnwrittenCell_of_covers {base x0 y0 : Nat} {cy : Fin 32} {cx : Fin 64}
    (hc : Covers s base n x0 y0 cy cx) (hu : s.viewCell cy cx = none)
    (hfirst : ∀ dy dx, Covers s base n x0 y0 dy dx → s.viewCell dy dx = none → cy < dy ∨ (cy = dy ∧ cx ≤ dx)) :
    s.firstUnwrittenCell (s.pattern base n x0 y0) = some (.disp cy cx) := by
  refine s.firstUnwrittenCell_eq_some.2 ⟨cy, cx, rfl, ⟨?_, s.viewCell_eq_none.1 hu⟩, fun dy dx hd hud => ?_⟩
  · exact pattern_getMsbD_iff_covers.2 hc
  · exact hfirst dy dx (pattern_getMsbD_iff_covers.1 hd) (s.viewCell_eq_none.2 hud)

/-- Settles O35: a sprite that covers a cell has a row, so I is read, and the loop stops at the first unwritten cell. -/
theorem drawOverUnwrittenCellFaults : Obligations.DrawOverUnwrittenCellFaults := by
  intro s x y n a b cy cx hx hy hI hr hc hu hfirst
  have hn : n ≠ 0 := by
    obtain ⟨r, -, hrn, -⟩ := hc
    omega
  rw [RaisesAt, exec, execDrw, withV_of_view hx, withV_of_view hy, withSpriteBase, if_neg hn,
    withI_of_view (s.viewI_eq_some.2 ⟨hI, rfl⟩), withRange_of_inRange (.inr hr), drawSprite,
    firstUnwrittenCell_of_covers hc hu hfirst]
  rfl

end Sys2Proof.Proofs.Store
end

section
/-! Rules of every instruction (R57, R270 to R280): it answers a next state, what it keeps, when it raises, and that a
raise is precise. -/

namespace Sys2Proof.Proofs.Faults

open Sys2Proof Sys2Proof.Machine

variable {s t : State} {i : Instr} {x y : Reg} {n : Nat}

/-! ### Every instruction and every step answers a next state -/

theorem aluRegs_answers (f : AluFn) (x y : Reg) (s : State) : ∃ t, aluRegs f x y s = .next t :=
  withV_answers fun _ => withV_answers fun _ => ⟨_, rfl⟩

theorem aluOne_answers (f : AluFn) (x : Reg) (b : Byte) (s : State) : ∃ t, aluOne f x b s = .next t :=
  withV_answers fun _ => ⟨_, rfl⟩

theorem withKey_answers {go : Nat → Result} (h : ∀ k, ∃ t, go k = .next t) : ∃ t, withKey x s go = .next t := by
  refine withV_answers fun a => ?_
  split
  · exact ⟨_, rfl⟩
  · exact h _

theorem drawSprite_answers (base n x0 y0 : Nat) (s : State) : ∃ t, drawSprite base n x0 y0 s = .next t := by
  unfold drawSprite
  split <;> exact ⟨_, rfl⟩

theorem exec_answers (i : Instr) (s : State) : ∃ t, exec i s = .next t := by
  cases i with
  | cls | jp | ldByte | ldI | rnd | ldVxDT => exact ⟨_, rfl⟩
  | ret =>
    simp only [exec, execRet]
    split
    · exact ⟨_, rfl⟩
    · exact withTop_answers fun _ => ⟨_, rfl⟩
  | call =>
    simp only [exec, execCall]
    split <;> exact ⟨_, rfl⟩
  | ldVxK =>
    simp only [exec, execLdVxK]
    split <;> exact ⟨_, rfl⟩
  | seByte | sneByte | ldReg | jpV0 | ldDTVx | ldSTVx | ldF => exact withV_answers fun _ => ⟨_, rfl⟩
  | seReg | sneReg => exact withV_answers fun _ => withV_answers fun _ => ⟨_, rfl⟩
  | addByte | shr | shl => exact aluOne_answers ..
  | orReg | andReg | xorReg | addReg | subReg | subnReg => exact aluRegs_answers ..
  | skp | sknp => exact withKey_answers fun _ => ⟨_, rfl⟩
  | drw =>
    simp only [exec, execDrw]
    exact withV_answers fun _ => withV_answers fun _ => withSpriteBase_answers fun _ =>
      withRange_answers (drawSprite_answers ..)
  | addI =>
    simp only [exec, execAddI]
    exact withI_answers fun _ => withV_answers fun _ => ⟨_, rfl⟩
  | ldB =>
    simp only [exec, execLdB]
    exact withV_answers fun _ => withI_answers fun _ => withRange_answers ⟨_, rfl⟩
  | ldMemVx =>
    simp only [exec, execLdMemVx]
    exact withI_answers fun _ => withVUpTo_answers fun _ => withRange_answers ⟨_, rfl⟩
  | ldVxMem =>
    simp only [exec, execLdVxMem]
    exact withI_answers fun _ => withRange_answers ⟨_, rfl⟩

theorem mapNext_answers {f : State → State} {r : Result} (h : ∃ t, r = .next t) : ∃ t, mapNext f r = .next t := by
  obtain ⟨t, rfl⟩ := h
  exact ⟨f t, rfl⟩

theorem cycle_answers (s : State) : ∃ t, cycle s = .next t := by
  unfold cycle
  split
  · exact ⟨_, rfl⟩
  split
  · exact ⟨_, rfl⟩
  split
  · exact ⟨_, rfl⟩
  · exact mapNext_answers (exec_answers ..)

theorem cycleClock_answers (b : Bool) (s : State) : ∃ t, cycleClock b s = .next t := by
  unfold cycleClock
  split
  · exact mapNext_answers (cycle_answers s)
  · exact ⟨_, rfl⟩

theorem runPass_answers (p : PassInput) (s : State) : ∃ t, runPass p s = .next t := by
  unfold runPass runClocks
  split
  · exact cycleClock_answers ..
  · exact mapNext_answers (cycleClock_answers ..)

/-- Settles O13: each read of an instruction raises or goes on, both with a next state, and so do the clocks. -/
theorem everyInstructionAndStepAnswersNext : Obligations.EveryInstructionAndStepAnswersNext :=
  ⟨exec_answers, fun s => runPass_answers s.nextInput s.popInput⟩

/-! ### Raises -/

/-- What an instruction does to the fault register: it raises, or leaves it. -/
theorem effect_raises_or_keeps_fault (h : Effect s i t) : Raises s t ∨ t.fault = s.fault := by
  cases h with
  | raise h => exact .inl h
  | _ => exact .inr (by simp)

/-- Settles O41: an instruction that does not leave the fault register is a raise. -/
theorem raiseIsPrecise : Obligations.RaiseIsPrecise := by
  intro i s t hs h ht
  obtain ⟨c, rfl, -⟩ | hf := effect_raises_or_keeps_fault (exec_effect h)
  · exact ⟨_, rfl, rfl, rfl⟩
  · exact absurd (hf.trans hs) ht

/-! ### Unwritten operands -/

/-- The instructions that read V[x] before anything else: their meanings are all of the form `withV x s _`. -/
theorem raisesAt_of_first_read (byte : Byte) (hx : s.viewV x = none) :
    ∀ i ∈ [Instr.seByte x byte, .sneByte x byte, .seReg x y, .sneReg x y, .addByte x byte, .ldReg y x,
        .orReg x y, .andReg x y, .xorReg x y, .addReg x y, .subReg x y, .shr x y, .subnReg x y, .shl x y,
        .drw x y n, .skp x, .sknp x, .ldDTVx x, .ldSTVx x, .ldF x, .ldB x],
      RaisesAt i s (.unwrittenRead (.v x)) := by
  simp only [List.forall_mem_cons, List.not_mem_nil, false_implies, implies_true, and_true, RaisesAt, exec,
    execSeByte, execSneByte, execSeReg, execSneReg, execAddByte, execLdReg, execOrReg, execAndReg, execXorReg,
    execAddReg, execSubReg, execShr, execSubnReg, execShl, execDrw, execSkp, execSknp, execLdDTVx, execLdSTVx,
    execLdF, execLdB, aluRegs, aluOne, withKey, withV_raises hx, State.raise]

/-- The instructions that read V[y] right after V[x]: their meanings are of the form
`withV x s fun _ => withV y s _`. -/
theorem raisesAt_of_second_read {a : Byte} (hx : s.viewV x = some a) (hy : s.viewV y = none) :
    ∀ i ∈ [Instr.seReg x y, .sneReg x y, .orReg x y, .andReg x y, .xorReg x y, .addReg x y, .subReg x y,
        .subnReg x y, .drw x y n],
      RaisesAt i s (.unwrittenRead (.v y)) := by
  simp only [List.forall_mem_cons, List.not_mem_nil, false_implies, implies_true, and_true, RaisesAt, exec,
    execSeReg, execSneReg, execOrReg, execAndReg, execXorReg, execAddReg, execSubReg, execSubnReg, execDrw, aluRegs,
    withV_of_view hx, withV_raises hy, State.raise]

/-- The instructions that read I before anything else. -/
theorem raisesAt_of_read_i (hI : s.viewI = none) :
    ∀ i ∈ [Instr.addI x, .ldMemVx x, .ldVxMem x], RaisesAt i s (.unwrittenRead .i) := by
  simp only [List.forall_mem_cons, List.not_mem_nil, false_implies, implies_true, and_true, RaisesAt, exec,
    execAddI, execLdMemVx, execLdVxMem, withI_raises hI, State.raise]

theorem viewV_of_written (h : s.vUnwritten[x] = false) : s.viewV x = some (s.getV x) :=
  (State.viewV_eq_some s).2 ⟨h, rfl⟩

theorem viewI_of_written (h : s.iUnwritten = false) : s.viewI = some s.i :=
  (State.viewI_eq_some s).2 ⟨h, rfl⟩

/-- Settles O42: the reads before the unwritten operand go on, and its own read raises. -/
theorem unwrittenOperandFaults : Obligations.UnwrittenOperandFaults := by
  intro s x y byte addr n
  refine ⟨fun hx => ⟨raisesAt_of_first_read byte hx, fun hI => ?_, fun hlow hI hxy => ?_⟩,
    fun hx hy => raisesAt_of_second_read (viewV_of_written hx) hy, Jumps.exec_jpV0_raises,
    fun hI => ⟨raisesAt_of_read_i hI, fun hx => ?_, fun hx hy hn => ?_⟩, fun hsp hk => ?_⟩ <;> rw [RaisesAt, exec]
  · rw [execAddI, withI_of_view (viewI_of_written hI), withV_raises hx]
    rfl
  · rw [execLdMemVx, withI_of_view (viewI_of_written hI), withVUpTo_raises hxy hx hlow]
    rfl
  · rw [execLdB, withV_of_view (viewV_of_written hx), withI_raises hI]
    rfl
  · rw [execDrw, withV_of_view (viewV_of_written hx), withV_of_view (viewV_of_written hy), withSpriteBase,
      if_neg hn.ne', withI_raises hI]
    rfl
  · rw [execRet, if_neg (by omega), withTop_raises hk]
    rfl

/-! ### With no cell unwritten -/

theorem not_cellUnwritten (h : NoneUnwritten s) (c : CellName) : ¬ CellUnwritten s c := by
  cases c with
  | v x => simp [CellUnwritten, h.v x]
  | i => simp [CellUnwritten, h.i]
  | stack k => simp [CellUnwritten, h.stack k]
  | disp y x => simp [CellUnwritten, h.disp y]

theorem noneUnwritten_congr (h : NoneUnwritten s) (hv : t.vUnwritten = s.vUnwritten)
    (hi : t.iUnwritten = s.iUnwritten) (hk : t.stackUnwritten = s.stackUnwritten)
    (hd : t.dispUnwritten = s.dispUnwritten) : NoneUnwritten t :=
  ⟨hv ▸ h.v, hi ▸ h.i, hk ▸ h.stack, hd ▸ h.disp⟩

theorem noneUnwritten_setV (h : NoneUnwritten s) (x : Reg) (b : Byte) : NoneUnwritten (s.setV x b) where
  v z := by
    rw [State.vUnwritten_setV_get, h.v z, ite_self]
  i := h.i
  stack := h.stack
  disp := h.disp

theorem noneUnwritten_writeAlu (h : NoneUnwritten s) (x : Reg) (o : AluOut) : NoneUnwritten (s.writeAlu x o) := by
  unfold State.writeAlu
  split
  · exact noneUnwritten_setV h _ _
  · exact noneUnwritten_setV (noneUnwritten_setV h _ _) _ _

theorem noneUnwritten_setVUpTo (h : NoneUnwritten s) (x : Reg) (f : Nat → Byte) : NoneUnwritten (s.setVUpTo x f) where
  v z := by
    rw [State.vUnwritten_setVUpTo_get, h.v z, ite_self]
  i := by rw [State.setVUpTo_iUnwritten, h.i]
  stack k := by rw [State.setVUpTo_stackUnwritten, h.stack k]
  disp y := by rw [State.setVUpTo_dispUnwritten, h.disp y]

theorem noneUnwritten_push (h : NoneUnwritten s) (a : Word) : NoneUnwritten (s.push a) where
  v := h.v
  i := h.i
  stack k := by
    rw [State.push_stackUnwritten, Fin.getElem_fin, Vector.getElem_set, ← Fin.getElem_fin, h.stack k, ite_self]
  disp := h.disp

theorem noneUnwritten_setI (h : NoneUnwritten s) (a : Word) : NoneUnwritten (s.setI a) :=
  ⟨h.v, rfl, h.stack, h.disp⟩

theorem noneUnwritten_bumpI (h : NoneUnwritten s) (x : Reg) : NoneUnwritten (s.bumpI x) := by
  unfold State.bumpI
  split
  · exact noneUnwritten_setI h _
  · exact h

theorem noneUnwritten_writeBytes (h : NoneUnwritten s) (a : Nat) (bs : List Byte) :
    NoneUnwritten (s.writeBytes a bs) :=
  noneUnwritten_congr h (by simp) (by simp) (by simp) (by simp)

theorem noneUnwritten_clearDisp (h : NoneUnwritten s) : NoneUnwritten s.clearDisp :=
  ⟨h.v, h.i, h.stack, fun y => Vector.getElem_replicate y.isLt⟩

/-- No update that an instruction can be makes a cell unwritten. -/
theorem effect_keeps_noneUnwritten (h : NoneUnwritten s) (he : Effect s i t) : NoneUnwritten t := by
  have hadv : NoneUnwritten s.advance := noneUnwritten_congr h rfl rfl rfl rfl
  cases he with
  | raise hr => obtain ⟨c, rfl, -⟩ := hr; exact noneUnwritten_congr h rfl rfl rfl rfl
  | alu x o => exact noneUnwritten_writeAlu hadv x o
  | aluDraw x o => exact noneUnwritten_writeAlu (s := s.advance.countDraw) (noneUnwritten_congr h rfl rfl rfl rfl) x o
  | skip b => exact noneUnwritten_congr hadv (by simp) (by simp) (by simp) (by simp)
  | jump | wait | setDT | setST | ret => exact noneUnwritten_congr h rfl rfl rfl rfl
  | key b => exact noneUnwritten_setV (s := s.advance.countDraw) (noneUnwritten_congr h rfl rfl rfl rfl) _ b
  | call => exact noneUnwritten_congr (noneUnwritten_push hadv s.advance.pc) rfl rfl rfl rfl
  | setI a => exact noneUnwritten_setI hadv a
  | digits base bytes => exact noneUnwritten_writeBytes hadv base bytes
  | store base bytes => exact noneUnwritten_bumpI (noneUnwritten_writeBytes hadv base bytes) _
  | load f => exact noneUnwritten_bumpI (noneUnwritten_setVUpTo hadv _ f) _
  | clear => exact noneUnwritten_clearDisp hadv
  | draw p b => exact noneUnwritten_setV (s := s.advance.xorDisp p) (noneUnwritten_congr h rfl rfl rfl rfl) _ b
  | readDT => exact noneUnwritten_setV hadv _ _

/-- Settles O43: an UnwrittenRead names a cell that is unwritten, and there is none. -/
theorem noUnwrittenReadWhenAllWritten : Obligations.NoUnwrittenReadWhenAllWritten := by
  intro i s t hs h
  have he := exec_effect h
  refine ⟨effect_keeps_noneUnwritten hs he, fun hf f hft c hc => ?_⟩
  obtain ⟨c', rfl, hu⟩ | hkeep := effect_raises_or_keeps_fault he
  · cases hft
    exact not_cellUnwritten hs c (hu c hc)
  · rw [hkeep, hf] at hft
    cases hft

/-! ### What instructions keep -/

theorem effect_keepsPlatform (h : Effect s i t) : KeepsPlatform s t := by
  cases h with
  | raise h => obtain ⟨c, rfl, -⟩ := h; constructor <;> rfl
  | _ => constructor <;> simp

/-- Settles O44: none of the updates an instruction can be names an element of the platform. -/
theorem instructionsKeepPlatform : Obligations.InstructionsKeepPlatform :=
  fun _ _ _ h => effect_keepsPlatform (exec_effect h)

theorem raises_same {p : StatePart} (h : Raises s t) (hp : p ≠ .fault) : Same s t p := by
  obtain ⟨c, rfl, -⟩ := h
  cases p <;> simp [Same, State.readMem] at hp ⊢

theorem effect_same_mem (h : Effect s i t) (hi : ∀ x, i ≠ .ldB x ∧ i ≠ .ldMemVx x) : Same s t .mem := by
  cases h with
  | raise h => exact raises_same h (by decide)
  | @digits x => exact absurd rfl (hi x).1
  | @store x => exact absurd rfl (hi x).2
  | _ => simp [Same, State.readMem]

theorem effect_same_disp (h : Effect s i t) (hi : i ≠ .cls ∧ ∀ x y n, i ≠ .drw x y n) : Same s t .disp := by
  cases h with
  | raise h => exact raises_same h (by decide)
  | clear => exact absurd rfl hi.1
  | @draw x y n => exact absurd rfl (hi.2 x y n)
  | _ => simp [Same]

theorem effect_same_stack (h : Effect s i t) (hi : i ≠ .ret ∧ ∀ addr, i ≠ .call addr) : Same s t .stack := by
  cases h with
  | raise h => exact raises_same h (by decide)
  | ret => exact absurd rfl hi.1
  | @call addr => exact absurd rfl (hi.2 addr)
  | _ => simp [Same]

theorem effect_same_dt (h : Effect s i t) (hi : ∀ x, i ≠ .ldDTVx x) : Same s t .dt := by
  cases h with
  | raise h => exact raises_same h (by decide)
  | @setDT x => exact absurd rfl (hi x)
  | _ => simp [Same]

theorem effect_same_st (h : Effect s i t) (hi : ∀ x, i ≠ .ldSTVx x) : Same s t .st := by
  cases h with
  | raise h => exact raises_same h (by decide)
  | @setST x => exact absurd rfl (hi x)
  | _ => simp [Same]

theorem effect_same_i (h : Effect s i t)
    (hi : ∀ addr x, i ≠ .ldI addr ∧ i ≠ .addI x ∧ i ≠ .ldF x ∧ i ≠ .ldMemVx x ∧ i ≠ .ldVxMem x) :
    Same s t .i := by
  cases h with
  | raise h => exact raises_same h (by decide)
  | setI a hw =>
    obtain ⟨addr, rfl⟩ | ⟨x, rfl⟩ | ⟨x, rfl⟩ := hw
    · simpa using hi addr 0
    · simpa using hi 0 x
    · simpa using hi 0 x
  | @store x => simpa using hi 0 x
  | @load x => simpa using hi 0 x
  | _ => simp [Same]

/-- Settles O45: for each store, only the updates of its writers touch it. -/
theorem writersOfEachStore : Obligations.WritersOfEachStore := by
  intro i s t h
  have he := exec_effect h
  exact ⟨effect_same_mem he, effect_same_disp he, effect_same_stack he, effect_same_dt he, effect_same_st he,
    effect_same_i he⟩

end Sys2Proof.Proofs.Faults
end

section
/-! The cycle in a pass (R89, R140 to R147, R290): the fetched word, the advance, and the clocks that run. -/

namespace Sys2Proof.Proofs.Passes

open Sys2Proof Sys2Proof.Machine Sys2Proof.Proofs.ModeEvents

variable {s t b v u : State} {p : PassInput} {i : Instr} {w : Word}

/-! ### Fetch and advance -/

theorem wordOfBytes_toNat (hi lo : Byte) : (wordOfBytes hi lo).toNat = hi.toNat * 256 + lo.toNat := by
  rw [wordOfBytes, BitVec.toNat_append, ← Nat.shiftLeft_add_eq_or_of_lt lo.isLt, Nat.shiftLeft_eq]

/-- Settles O7: the word is the first byte over the second. -/
theorem fetchReadsBigEndianWordInRange : Obligations.FetchReadsBigEndianWordInRange := by
  intro s w
  rw [State.fetchWord?_eq_some, ← wordOfBytes_toNat, BitVec.toNat_inj]

/-- Settles O12: the advance is taken modulo 0xFFE. -/
theorem advanceAddsTwoAndWraps : Obligations.AdvanceAddsTwoAndWraps := by
  intro a ha
  rw [adv_toNat]
  unfold pcMod
  omega

/-- Settles O46: each timer is counted down. -/
theorem tickCountsDownToZero : Obligations.TickCountsDownToZero :=
  fun s => ⟨countDown_toNat s.dt, countDown_toNat s.st, rfl⟩

/-! ### A step that runs a defined instruction -/

theorem mapNext_mapNext (f g : State → State) (r : Result) :
    mapNext g (mapNext f r) = mapNext (fun t => g (f t)) r := by
  cases r <;> rfl

theorem cycleClock_of_due {advance : Bool} (hd : s.cycleDue advance = true) :
    cycleClock advance s = mapNext State.countCycle (cycle s) :=
  if_pos hd

theorem cycleClock_of_defined {advance : Bool} (hd : s.cycleDue advance = true) (hf : s.fault = none)
    (hw : s.fetchWord? = some w) (hi : decodeWord w = some i) :
    cycleClock advance s = mapNext (fun t => t.signalDone.countCycle) (exec i s) := by
  rw [cycleClock_of_due hd, Cycle.cycle_of_defined hf hw hi, mapNext_mapNext]

/-- Settles O6: the clocks of the pass, in the order of its input, with the cycle of a defined instruction. -/
theorem stepRunsDecodedInstruction : Obligations.StepRunsDecodedInstruction := by
  intro s i w hf hw hi
  have hf0 : (s.popInput.begun s.nextInput).fault = none := (State.takeEvent_fault ..).trans hf
  have hw0 : (s.popInput.begun s.nextInput).fetchWord? = some w := (fetchWord?_begun _).trans hw
  show _ → runClocks s.nextInput (s.popInput.begun s.nextInput) = _
  unfold runClocks
  cases s.nextInput.timerFirst with
  | true =>
    intro hd
    exact cycleClock_of_defined hd ((State.timerClock_fault _).trans hf0) (fetchWord?_timerClock.trans hw0) hi
  | false =>
    intro hd
    exact (congrArg (mapNext State.timerClock) (cycleClock_of_defined hd hf0 hw0 hi)).trans (mapNext_mapNext ..)

/-! ### What the start of a pass writes -/

theorem now_begun : (s.begun p).now = laterTime s.now p.now :=
  (State.takeEvent_now ..).trans rfl

theorem begun_of_same (h : targetMode s.mode p.event = s.mode) : s.begun p = s.sample p :=
  takeEvent_same (s := s.sample p) h

theorem begun_of_change (h : targetMode s.mode p.event ≠ s.mode) : s.begun p = { s.sample p with
    mode := targetMode s.mode p.event, cyclesIssued := 0, clocksIssued := 0, start := (s.sample p).now } :=
  takeEvent_change (s := s.sample p) h

theorem timerDue_congr (hc : t.clocksIssued = s.clocksIssued) (hn : t.now = s.now) (hs : t.start = s.start) :
    t.timerDue = s.timerDue := by
  rw [State.timerDue, hc, hn, hs, State.timerDue]

theorem timerClock_clocksIssued :
    s.timerClock.clocksIssued = s.clocksIssued + (if s.timerDue then 1 else 0) := by
  obtain ⟨h, e⟩ | ⟨h, e⟩ := timerClock_cases (s := s) <;> rw [e, h]
  · exact fireTimer_clocksIssued
  · rfl

theorem timerClock_render : s.timerClock.render = (s.timerDue || s.render) := by
  obtain ⟨h, e⟩ | ⟨h, e⟩ := timerClock_cases (s := s) <;> rw [e, h] <;> rfl

/-! ### What a pass does to the clocks -/

/-- The clocks of a pass, from the state `b` it starts from: each runs exactly when it is due, and is counted. -/
structure ClocksRun (advance : Bool) (b t : State) : Prop where
  mode   : t.mode = b.mode
  start  : t.start = b.start
  now    : t.now = b.now
  cfg    : t.cfg = b.cfg
  clocks : t.clocksIssued = b.clocksIssued + (if b.timerDue then 1 else 0)
  render : t.render = b.timerDue
  cycles : t.cyclesIssued = b.cyclesIssued + (if b.cycleDue advance then 1 else 0)
  signal : t.cycleOk.isSome = b.cycleDue advance

/-- By which clocks ran, and in which order. -/
theorem clocksRun_of_step (h : step s = .next t) :
    ClocksRun s.nextInput.advance (s.popInput.begun s.nextInput) t := by
  have hr : (s.popInput.begun s.nextInput).render = false := State.takeEvent_render ..
  have hok : (s.popInput.begun s.nextInput).cycleOk = none := State.takeEvent_cycleOk ..
  obtain ⟨hd, rfl⟩ | ⟨hd, ⟨u, hu, rfl⟩ | ⟨u, hu, rfl⟩⟩ := step_next h
  · constructor <;> simp [timerClock_clocksIssued, timerClock_render, hd, hr, hok]
  · obtain ⟨-, hmode, hcyc, hclk, hstart, hcfg, hnow, hrender, -, -, hsig⟩ := hu.keeps
    constructor <;>
      simp [hmode, hcyc, hclk, hstart, hcfg, hnow, hrender, timerClock_clocksIssued, timerClock_render, hd, hr,
        Option.isSome_iff_ne_none.2 hsig]
  · obtain ⟨-, hmode, hcyc, hclk, hstart, hcfg, hnow, hrender, -, -, hsig⟩ := hu.keeps
    have hdue : u.countCycle.timerDue = (s.popInput.begun s.nextInput).timerDue := timerDue_congr hclk hnow hstart
    constructor <;>
      simp [hmode, hcyc, hclk, hstart, hcfg, hnow, hrender, timerClock_clocksIssued, timerClock_render, hd, hr, hdue,
        Option.isSome_iff_ne_none.2 hsig]

theorem cycleOk_ne_none_iff {advance : Bool} (C : ClocksRun advance b t) :
    t.cycleOk ≠ none ↔ b.cycleDue advance = true := by
  rw [← C.signal, Option.isSome_iff_ne_none]

theorem cycleOk_eq_none_iff {advance : Bool} (C : ClocksRun advance b t) :
    t.cycleOk = none ↔ b.cycleDue advance = false := by
  rw [← Bool.not_eq_true, ← cycleOk_ne_none_iff C, not_not]

theorem step_now (h : step s = .next t) : t.now = laterTime s.now s.nextInput.now :=
  (clocksRun_of_step h).now.trans now_begun

/-- A reading that keeps the law of R299 is taken as it is. -/
theorem step_now_of_clockLaw (h : step s = .next t) (hl : ClockLaw s) : t.now = s.nextInput.now :=
  (step_now h).trans (laterTime_of_le hl)

/-! ### A pass that changes the mode -/

theorem timerDue_begun_of_change (h : targetMode s.mode p.event ≠ s.mode) : (s.begun p).timerDue = true := by
  rw [begun_of_change h]
  exact clockDue_zero

theorem cycleDue_begun_of_running (h : targetMode s.mode p.event ≠ s.mode)
    (hm : targetMode s.mode p.event = .running) (advance : Bool) : (s.begun p).cycleDue advance = true := by
  rw [State.cycleDue, mode_begun, hm, begun_of_change h]
  exact clockDue_zero

theorem cycleDue_of_stepping (h : s.mode = .stepping) (advance : Bool) : s.cycleDue advance = advance := by
  rw [State.cycleDue, h]

theorem cycleDue_of_halted (h : s.mode = .halted) (advance : Bool) : s.cycleDue advance = false := by
  rw [State.cycleDue, h]

theorem cycleDue_of_running_iff (h : s.mode = .running) (advance : Bool) :
    s.cycleDue advance = true ↔ (s.cyclesIssued : ℚ) ≤ (s.now.val - s.start.val) * s.cfg.cycleF.val := by
  rw [State.cycleDue, h]
  exact clockDue_iff

end Sys2Proof.Proofs.Passes
end

section
/-! The scheduler (R285 to R300): when the clocks of a pass run, what a pass leaves alone, the timers through a pass,
and the rate bounds. -/

namespace Sys2Proof.Proofs.Scheduler

open Sys2Proof Sys2Proof.Machine Sys2Proof.Proofs.ModeEvents Sys2Proof.Proofs.Passes

variable {s t b v u : State} {p : PassInput} {f : State → Byte}

/-! ### When the clocks run -/

/-- Settles O48: a change restarts both counts at the sample of `now`, so the timer clock is due, and the cycle clock by
the new mode; without a change the clocks only count on. -/
theorem changeOfModeRestartsClocks : Obligations.ChangeOfModeRestartsClocks := by
  intro s t h
  have C := clocksRun_of_step h
  have hmode := step_mode h
  refine ⟨step_now_of_clockLaw h, fun hne => ?_, fun hsame => ?_⟩
  · have hc : targetMode s.mode s.nextInput.event ≠ s.mode := hmode ▸ hne
    have hb := begun_of_change (s := s.popInput) hc
    have htick : (s.popInput.begun s.nextInput).timerDue = true := timerDue_begun_of_change hc
    have hcycles : t.cyclesIssued =
        if (s.popInput.begun s.nextInput).cycleDue s.nextInput.advance then 1 else 0 := by
      rw [C.cycles, hb, Nat.zero_add]
    refine ⟨?_, ?_, C.render.trans htick, fun hm => ?_, fun hm => ?_, fun hm => ?_⟩
    · rw [C.start, C.now, hb]
    · rw [C.clocks, htick, hb]
      rfl
    · have hdue := cycleDue_begun_of_running (s := s.popInput) hc (hmode.symm.trans hm) s.nextInput.advance
      exact ⟨by rw [hcycles, hdue, if_pos rfl], (cycleOk_ne_none_iff C).2 hdue⟩
    · rw [hcycles, cycleDue_of_stepping (C.mode.symm.trans hm)]
    · have hdue := cycleDue_of_halted (C.mode.symm.trans hm) s.nextInput.advance
      exact ⟨by rw [hcycles, hdue, if_neg Bool.false_ne_true], (cycleOk_eq_none_iff C).2 hdue⟩
  · have hb := begun_of_same (s := s.popInput) (hmode.symm.trans hsame)
    refine ⟨by rw [C.start, hb]; rfl, ?_, ?_⟩
    · rw [C.cycles, hb]
      exact Nat.le_add_right ..
    · rw [C.clocks, hb]
      exact Nat.le_add_right ..

/-! ### What a pass leaves alone -/

/-- Everything instructions act on but the timers is the same, and so are the log and the parameters. -/
structure KeepsMachine (s t : State) : Prop where
  parts  : ∀ p : StatePart, p ≠ .dt → p ≠ .st → Same s t p
  events : t.events = s.events
  cfg    : t.cfg = s.cfg

theorem keepsMachine_trans (h₁ : KeepsMachine s t) (h₂ : KeepsMachine t u) : KeepsMachine s u where
  parts p hd hs := Frames.same_trans (h₁.parts p hd hs) (h₂.parts p hd hs)
  events := h₂.events.trans h₁.events
  cfg := h₂.cfg.trans h₁.cfg

theorem keepsMachine_begun (s : State) (p : PassInput) : KeepsMachine s (s.popInput.begun p) where
  parts q _ _ := Frames.same_trans (t := s.popInput) (by cases q <;> simp [Same, State.readMem]) (begun_same p q)
  events := State.takeEvent_events ..
  cfg := State.takeEvent_cfg ..

theorem keepsMachine_timerClock (s : State) : KeepsMachine s s.timerClock where
  parts q hd hs := by cases q <;> simp [Same, State.readMem] at hd hs ⊢
  events := by simp
  cfg := by simp

theorem keepsMachine_countCycle (s : State) : KeepsMachine s s.countCycle where
  parts q _ _ := by cases q <;> simp [Same, State.readMem]
  events := rfl
  cfg := rfl

theorem keepsMachine_signal (s : State) (r : CycleResult) : KeepsMachine s (s.signal r) where
  parts q _ _ := by cases q <;> simp [Same, State.readMem]
  events := rfl
  cfg := rfl

theorem fetchWord?_of_keepsMachine (h : KeepsMachine s t) : t.fetchWord? = s.fetchWord? :=
  State.fetchWord?_congr (h.parts .pc (by decide) (by decide)) (h.parts .mem (by decide) (by decide)).2 h.cfg

theorem fault_of_keepsMachine (h : KeepsMachine s t) : t.fault = s.fault :=
  h.parts .fault (by decide) (by decide)

/-- A step keeps the machine, or it does so on both sides of its one cycle. -/
theorem step_shape (h : step s = .next t) :
    (t.cycleOk = none ∧ KeepsMachine s t) ∨
    ∃ v u, KeepsMachine s v ∧ CycleEffect v u ∧ KeepsMachine u t ∧ t.cycleOk = u.cycleOk := by
  have hb := keepsMachine_begun s s.nextInput
  have hok : (s.popInput.begun s.nextInput).cycleOk = none := State.takeEvent_cycleOk ..
  obtain ⟨-, rfl⟩ | ⟨-, ⟨u, hu, rfl⟩ | ⟨u, hu, rfl⟩⟩ := step_next h
  · exact .inl ⟨(State.timerClock_cycleOk _).trans hok, keepsMachine_trans hb (keepsMachine_timerClock _)⟩
  · exact .inr ⟨_, u, keepsMachine_trans hb (keepsMachine_timerClock _), hu, keepsMachine_countCycle u, rfl⟩
  · exact .inr ⟨_, u, hb, hu, keepsMachine_trans (keepsMachine_countCycle u) (keepsMachine_timerClock _), by simp⟩

theorem step_keepsMachine_of_no_cycle (h : step s = .next t) (hok : t.cycleOk = none) : KeepsMachine s t := by
  obtain ⟨-, hk⟩ | ⟨v, u, -, hu, -, hsig⟩ := step_shape h
  · exact hk
  · obtain ⟨-, -, -, -, -, -, -, -, -, -, hne⟩ := hu.keeps
    exact absurd (hsig.symm.trans hok) hne

/-- Settles O50: the cycle clock is due by the mode, and counts by one; the pass without it is the timer clock alone. -/
theorem cycleClockIssuesAtMostOneCycle : Obligations.CycleClockIssuesAtMostOneCycle := by
  intro s t h
  have C := clocksRun_of_step h
  refine ⟨step_now_of_clockLaw h, fun hsame => ?_, fun hok => ?_, C.cfg.trans (State.takeEvent_cfg ..)⟩
  · have hb := begun_of_same (s := s.popInput) ((step_mode h).symm.trans hsame)
    refine ⟨fun hm => ?_, fun hm => ?_, ?_⟩
    · rw [cycleOk_ne_none_iff C, cycleDue_of_running_iff (C.mode.symm.trans hm), C.now, hb]
      rfl
    · rw [cycleOk_ne_none_iff C, cycleDue_of_stepping (C.mode.symm.trans hm)]
    · rw [C.cycles, C.signal, hb]
      rfl
  · have hk := step_keepsMachine_of_no_cycle h hok
    exact ⟨hk.parts, hk.events⟩

/-- Settles O55: the log is kept on both sides of the cycle, and the cycle logs an undefined word only. -/
theorem eventLogGrowsByUndefinedWordsOnly : Obligations.EventLogGrowsByUndefinedWordsOnly := by
  intro s t h
  obtain ⟨-, hk⟩ | ⟨v, u, hv, hu, ht, -⟩ := step_shape h
  · exact .inl hk.events
  have hkeep (hu : u.events = v.events) : t.events = s.events := ht.events.trans (hu.trans hv.events)
  cases hu with
  | faulted => exact .inl (hkeep rfl)
  | badFetch => exact .inl (hkeep rfl)
  | ran _ _ _ hx => exact .inl (hkeep (Faults.effect_keepsPlatform (exec_effect hx)).events)
  | @undefined w hf hw hd =>
    have hpc : v.pc = s.pc := hv.parts .pc (by decide) (by decide)
    refine .inr ⟨w, (fault_of_keepsMachine hv).symm.trans hf, (fetchWord?_of_keepsMachine hv).symm.trans hw, hd,
      ?_, ?_⟩
    · rw [ht.events, ← hpc, ← hv.events]
      rfl
    · rw [← hpc]
      exact ht.parts .pc (by decide) (by decide)

/-! ### The timers through a pass -/

/-- `f` is DT or ST, as far as a pass is concerned. -/
structure IsTimer (f : State → Byte) : Prop where
  begun      : ∀ s p, f (s.popInput.begun p) = f s
  countCycle : ∀ s, f s.countCycle = f s
  timerClock : ∀ s, (f s.timerClock).toNat =
    if s.timerDue = true ∧ s.mode ≠ .halted then (f s).toNat - 1 else (f s).toNat

theorem isTimer_dt : IsTimer State.dt :=
  ⟨fun _ _ => State.takeEvent_dt .., fun _ => rfl, fun _ => timerClock_dt_toNat⟩

theorem isTimer_st : IsTimer State.st :=
  ⟨fun _ _ => State.takeEvent_st .., fun _ => rfl, fun _ => timerClock_st_toNat⟩

/-- A step whose cycle, if any, leaves a timer alone counts it down exactly when the timer clock fires outside
Halted, on whichever side of the cycle it does (R287, R293, R296). -/
theorem step_timer (hf : IsTimer f) (h : step s = .next t)
    (hk : t.cycleOk = none ∨ ∀ v u, KeepsMachine s v → CycleEffect v u → f u = f v) :
    (f t).toNat = if t.render = true ∧ t.mode ≠ .halted then (f s).toNat - 1 else (f s).toNat := by
  have C := clocksRun_of_step h
  have hb := keepsMachine_begun s s.nextInput
  rw [C.render, C.mode, ← hf.begun s s.nextInput, ← hf.timerClock]
  obtain ⟨-, rfl⟩ | ⟨hd, hcycle⟩ := step_next h
  · rfl
  have hkeep : ∀ v u, KeepsMachine s v → CycleEffect v u → f u = f v :=
    hk.resolve_left ((cycleOk_ne_none_iff C).2 hd)
  obtain ⟨u, hu, rfl⟩ | ⟨u, hu, rfl⟩ := hcycle
  · rw [hf.countCycle, hkeep _ u (keepsMachine_trans hb (keepsMachine_timerClock _)) hu]
  · obtain ⟨-, hmode, -, hclk, hstart, -, hnow, -, -, -, -⟩ := hu.keeps
    have hdue : u.countCycle.timerDue = (s.popInput.begun s.nextInput).timerDue := timerDue_congr hclk hnow hstart
    rw [hf.timerClock, hf.timerClock, hf.countCycle, hkeep _ u hb hu, hdue, State.countCycle_mode, hmode]

theorem dt_of_no_load (hn : ∀ w x, s.fetchWord? = some w → decodeWord w ≠ some (.ldDTVx x)) (hv : KeepsMachine s v)
    (hu : CycleEffect v u) : u.dt = v.dt := by
  refine hu.timers.1.resolve_right fun ⟨w, x, hw, hd⟩ => hn w x ?_ hd
  rwa [← fetchWord?_of_keepsMachine hv]

theorem st_of_no_load (hn : ∀ w x, s.fetchWord? = some w → decodeWord w ≠ some (.ldSTVx x)) (hv : KeepsMachine s v)
    (hu : CycleEffect v u) : u.st = v.st := by
  refine hu.timers.2.resolve_right fun ⟨w, x, hw, hd⟩ => hn w x ?_ hd
  rwa [← fetchWord?_of_keepsMachine hv]

/-- Settles O51: render and the count say whether the timer clock was due, and no cycle but a load of a timer changes
it. -/
theorem renderMarksTimerClock : Obligations.RenderMarksTimerClock := by
  intro s t h
  have C := clocksRun_of_step h
  refine ⟨step_now_of_clockLaw h, fun hsame => ?_, fun hk => ?_, fun hk => ?_⟩
  · have hb := begun_of_same (s := s.popInput) ((step_mode h).symm.trans hsame)
    refine ⟨?_, ?_⟩
    · rw [C.render, State.timerDue, clockDue_iff, C.now, hb]
      rfl
    · rw [C.clocks, C.render, hb]
      rfl
  · exact step_timer isTimer_dt h (hk.imp_right fun hn _ _ => dt_of_no_load hn)
  · exact step_timer isTimer_st h (hk.imp_right fun hn _ _ => st_of_no_load hn)

/-- Settles O53: without its load a timer is counted down or kept. -/
theorem delayTimerGrowsByLoadOnly : Obligations.DelayTimerGrowsByLoadOnly := by
  intro s t h
  constructor
  · refine or_iff_not_imp_right.2 fun hn => ?_
    have hdt := step_timer isTimer_dt h (.inr fun _ _ => dt_of_no_load fun w x hw hd => hn ⟨w, x, hw, hd⟩)
    split at hdt <;> omega
  · refine or_iff_not_imp_right.2 fun hn => ?_
    have hst := step_timer isTimer_st h (.inr fun _ _ => st_of_no_load fun w x hw hd => hn ⟨w, x, hw, hd⟩)
    split at hst <;> omega

/-! ### Halted and faulted blocks -/

/-- Settles O49: in Halted no cycle is due, and a firing of the timer clock is no tick. -/
theorem haltedPassKeepsState : Obligations.HaltedPassKeepsState := by
  intro s hm
  obtain ⟨t, h⟩ := Faults.everyInstructionAndStepAnswersNext.2 s
  have C := clocksRun_of_step h
  have hhalt : t.mode = .halted := (step_mode h).trans hm
  have hok : t.cycleOk = none :=
    (cycleOk_eq_none_iff C).2 (cycleDue_of_halted (C.mode.symm.trans hhalt) _)
  have hk := step_keepsMachine_of_no_cycle h hok
  have timer {f} (hf : IsTimer f) : f t = f s := by
    have := step_timer hf h (.inl hok)
    rw [if_neg fun hc => hc.2 hhalt] at this
    exact BitVec.eq_of_toNat_eq this
  refine ⟨t, h, fun p => ?_, hk.events, hok⟩
  by_cases hd : p = .dt
  · subst hd
    exact timer isTimer_dt
  by_cases hs : p = .st
  · subst hs
    exact timer isTimer_st
  exact hk.parts p hd hs

/-- The cycle of a faulted block drives its signal and nothing else (R141). -/
theorem cycleEffect_of_faulted (hf : s.fault ≠ none) (hu : CycleEffect s u) : u = s.signal .failure := by
  cases hu with
  | faulted => rfl
  | badFetch h => exact absurd h hf
  | undefined h => exact absurd h hf
  | ran h => exact absurd h hf

/-- Settles O54: the cycle of a faulted block is its signal, so all that is left of the pass is the timer clock. -/
theorem faultIsStickyAndTimersGoOn : Obligations.FaultIsStickyAndTimersGoOn := by
  intro s t hf h
  have hcycle {v u} (hv : KeepsMachine s v) (hu : CycleEffect v u) : u = v.signal .failure :=
    cycleEffect_of_faulted (by rwa [fault_of_keepsMachine hv]) hu
  have hk : KeepsMachine s t ∧ (t.cycleOk = none ∨ t.cycleOk = some .failure) := by
    obtain ⟨hok, hk⟩ | ⟨v, u, hv, hu, ht, hsig⟩ := step_shape h
    · exact ⟨hk, .inl hok⟩
    · obtain rfl := hcycle hv hu
      exact ⟨keepsMachine_trans hv (keepsMachine_trans (keepsMachine_signal v _) ht), .inr hsig⟩
  refine ⟨hk.1.parts, hk.1.events, fun hr hm => ⟨?_, ?_⟩, hk.2⟩
  · have hdt := step_timer isTimer_dt h (.inr fun v u hv hu => by rw [hcycle hv hu, State.signal_dt])
    rwa [if_pos ⟨hr, hm⟩] at hdt
  · have hst := step_timer isTimer_st h (.inr fun v u hv hu => by rw [hcycle hv hu, State.signal_st])
    rwa [if_pos ⟨hr, hm⟩] at hst

/-! ### The rate bounds -/

/-- A count within its bound stays there when it grows only while it is due (R298). -/
theorem count_le_floor {n : Nat} {r : ℚ} {due : Bool} (h : (n : Int) ≤ ⌊r⌋ + 1) (hd : due = true → (n : ℚ) ≤ r) :
    ((n + (if due then 1 else 0) : Nat) : Int) ≤ ⌊r⌋ + 1 := by
  cases due with
  | false => exact h
  | true =>
    have : (n : Int) ≤ ⌊r⌋ := Int.le_floor.2 (by exact_mod_cast hd rfl)
    push_cast
    simpa using this

theorem zero_le_floor_self (now rate : ℚ) : ((0 : Nat) : Int) ≤ ⌊(now - now) * rate⌋ + 1 := by
  simp

theorem floor_elapsed_mono {now now' start rate : ℚ} (h : now ≤ now') (hr : 0 ≤ rate) :
    ⌊(now - start) * rate⌋ ≤ ⌊(now' - start) * rate⌋ :=
  Int.floor_le_floor (mul_le_mul_of_nonneg_right (sub_le_sub_right h start) hr)

theorem le_laterTime_left (x y : Time) : x.val ≤ (laterTime x y).val := by
  rw [laterTime_val]
  exact le_max_left ..

theorem rateInv_boot (cfg : Config) (rom : List Byte) : RateInv (State.boot cfg rom) := by
  have hstart : (State.boot cfg rom).start = .zero := State.writeBytes_start ..
  have hnow : (State.boot cfg rom).now = .zero := State.writeBytes_now ..
  have hclk : (State.boot cfg rom).clocksIssued = 0 := State.writeBytes_clocksIssued ..
  have hcyc : (State.boot cfg rom).cyclesIssued = 0 := State.writeBytes_cyclesIssued ..
  refine ⟨by rw [hstart, hnow], ?_, fun _ => ?_⟩
  · rw [hstart, hnow, hclk]
    exact zero_le_floor_self ..
  · rw [hstart, hnow, hcyc]
    exact zero_le_floor_self ..

/-- A change of mode starts the counts from 0; without one, only `now` moves, and not backwards. -/
theorem rateInv_begun (h : RateInv s) (p : PassInput) : RateInv (s.popInput.begun p) := by
  have hle : s.now.val ≤ (laterTime s.now p.now).val := le_laterTime_left ..
  by_cases hc : targetMode s.popInput.mode p.event = s.popInput.mode
  · rw [begun_of_same hc]
    refine ⟨h.time.trans hle, h.clocks.trans ?_, fun hm => (h.cycles hm).trans ?_⟩
    · exact Int.add_le_add_right (floor_elapsed_mono hle (by norm_num)) 1
    · exact Int.add_le_add_right (floor_elapsed_mono hle s.cfg.cycleF.pos.le) 1
  · rw [begun_of_change hc]
    exact ⟨le_rfl, zero_le_floor_self .., fun _ => zero_le_floor_self ..⟩

theorem rateInv_of_clocksRun {advance : Bool} (hb : RateInv b) (C : ClocksRun advance b t) : RateInv t := by
  refine ⟨?_, ?_, fun hm => ?_⟩
  · rw [C.start, C.now]
    exact hb.time
  · rw [C.clocks, C.start, C.now]
    exact count_le_floor hb.clocks clockDue_iff.1
  · rw [C.mode] at hm
    rw [C.cycles, C.start, C.now, C.cfg]
    exact count_le_floor (hb.cycles hm) (cycleDue_of_running_iff hm advance).1

/-- Settles O60: a clock runs only while its count is at most elapsed times rate, which is what the bound allows. -/
theorem rateBoundsAreKept : Obligations.RateBoundsAreKept := by
  refine ⟨rateInv_boot, fun s t hs h => ?_, fun s t h => ⟨?_, step_now_of_clockLaw h⟩⟩
  · exact rateInv_of_clocksRun (rateInv_begun hs _) (clocksRun_of_step h)
  · rw [step_now h]
    exact le_laterTime_left ..

end Sys2Proof.Proofs.Scheduler
end

section
/-! Reset, loading and the machine invariant (R44, R48, R57, R58, R80, R320, R322). -/

namespace Sys2Proof.Proofs.Invariant

open Sys2Proof Sys2Proof.Machine Sys2Proof.Proofs.Scheduler

variable {s t u v : State} {i : Instr} {cfg : Config} {font : Font}

/-! ### The reset values -/

theorem unlisted_of_outside {a : Nat} (h : a < 0x050 ∨ 0x0A0 ≤ a) : Memory.unlisted font a = 0 := by
  rw [Memory.unlisted, dif_neg (by unfold fontBase fontEnd; omega)]
  rfl

theorem unlisted_font {d r : Nat} (hd : d < 16) (hr : r < 5) :
    Memory.unlisted font (0x050 + 5 * d + r) = font[d][r] := by
  have hdiv : (0x050 + 5 * d + r - fontBase) / 5 = d := by unfold fontBase; omega
  have hmod : (0x050 + 5 * d + r - fontBase) % 5 = r := by unfold fontBase; omega
  rw [Memory.unlisted, dif_pos (by unfold fontBase fontEnd; omega)]
  simp only [hdiv, hmod]

/-- Settles O56: memory lists nothing, and the marks are those `UNLISTED_RESET` names. -/
theorem resetValues : Obligations.ResetValues := by
  intro cfg s
  refine ⟨rfl, rfl, rfl, rfl, rfl, rfl, rfl, rfl, rfl, rfl, rfl, rfl, fun a => unlisted_of_outside,
    fun d r hd hr => unlisted_font hd hr, fun hz => ?_, fun hu => ?_⟩
  · simp [s, State.resetWith, hz, State.viewV, State.getV, State.viewI, State.viewStack, State.viewCell, State.cell]
  · have hmarks : ∀ x : Fin 64, (BitVec.allOnes 64).getMsbD x = true := by decide
    simpa [s, State.resetWith, hu, State.viewV, State.viewI, State.viewStack, State.viewCell] using hmarks

theorem noneUnwritten_resetWith (h : cfg.unlistedReset = .zero) : NoneUnwritten (State.resetWith cfg) := by
  constructor <;> simp [State.resetWith, h]

/-! ### The loader -/

theorem writeBytes_eq (s : State) (a : Nat) (bs : List Byte) :
    s.writeBytes a bs = { s with mem := (s.writeBytes a bs).mem } := by
  induction bs generalizing s a with
  | nil => rfl
  | cons b bs ih => exact (ih (s.writeMem a b) (a + 1)).trans rfl

/-- Settles O57: the loader writes the bytes of the truncated ROM, and writes memory only. -/
theorem loaderCopiesRom : Obligations.LoaderCopiesRom := by
  intro cfg rom
  have hlen : (rom.take romMax).length = min rom.length 3583 := by rw [List.length_take, Nat.min_comm]
  refine ⟨fun k hk => ?_, fun a ha => ?_, writeBytes_eq ..⟩
  · exact (Store.readMem_writeBytes_add (hlen ▸ hk)).trans (List.getElem_take ..)
  · exact State.readMem_writeBytes_outside _ (hlen ▸ ha)

/-! ### The invariant at the start -/

/-- The invariant speaks of memory, pc, the stack, the marks, the log and the fault register. -/
theorem machineInv_of_keepsMachine (h : MachineInv s) (hk : KeepsMachine s t) : MachineInv t := by
  have part (p : StatePart) (hd : p ≠ .dt) (hs : p ≠ .st) : Same s t p := hk.parts p hd hs
  obtain ⟨hsp, hstack, hsu⟩ := part .stack (by decide) (by decide)
  obtain ⟨-, hmem⟩ := part .mem (by decide) (by decide)
  obtain ⟨-, hvu⟩ := part .v (by decide) (by decide)
  obtain ⟨-, hiu⟩ := part .i (by decide) (by decide)
  obtain ⟨-, hdu⟩ := part .disp (by decide) (by decide)
  have hpc : t.pc = s.pc := part .pc (by decide) (by decide)
  have hfault : t.fault = s.fault := part .fault (by decide) (by decide)
  refine ⟨?_, hpc ▸ h.pc, hstack ▸ h.stack, fun hz => ?_, hk.events ▸ h.events, ?_⟩
  · rw [hk.cfg, hmem]
    exact h.mem
  · rw [hk.cfg] at hz
    exact Faults.noneUnwritten_congr (h.zero hz) hvu hiu hsu hdu
  · rw [hfault, hpc]
    exact h.fault

theorem machineInv_resetWith (cfg : Config) : MachineInv (State.resetWith cfg) where
  mem := rfl
  pc := by show (0x200#16).toNat ≤ 0x10FE; decide
  stack k := by simp [State.resetWith]
  zero h := noneUnwritten_resetWith h
  events _ _ h := nomatch h
  fault _ h := nomatch h

theorem machineInv_writeBytes (h : MachineInv s) {a : Nat} {bs : List Byte} (hr : a + bs.length ≤ memSize) :
    MachineInv (s.writeBytes a bs) where
  mem := State.wf_writeBytes s h.mem hr
  pc := by rw [State.writeBytes_pc]; exact h.pc
  stack := by rw [State.writeBytes_stack]; exact h.stack
  zero hz := Faults.noneUnwritten_writeBytes (h.zero (by rwa [State.writeBytes_cfg] at hz)) a bs
  events := by rw [State.writeBytes_events]; exact h.events
  fault := by rw [State.writeBytes_fault, State.writeBytes_pc]; exact h.fault

theorem machineInv_boot (cfg : Config) (rom : List Byte) : MachineInv (State.boot cfg rom) := by
  refine machineInv_writeBytes (machineInv_resetWith cfg) ?_
  rw [List.length_take]
  unfold romBase romMax memSize
  omega

/-- Settles O58: reset lists no byte, and the loaded ROM ends at MEM_SIZE at most. -/
theorem bootMeetsInvariant : Obligations.BootMeetsInvariant :=
  ⟨machineInv_boot, machineInv_resetWith Config.standard⟩

/-! ### The invariant through an instruction -/

theorem effect_keeps_mem (h : Memory.wf s.cfg.font s.mem = true) (he : Effect s i t) :
    Memory.wf t.cfg.font t.mem = true := by
  cases he with
  | raise hr => obtain ⟨c, rfl, -⟩ := hr; exact h
  | digits base bytes hr => exact State.wf_writeBytes s.advance h hr
  | @store x base bytes hr =>
    rw [State.bumpI_cfg, State.bumpI_mem]
    exact State.wf_writeBytes s.advance h hr
  | _ => simpa using h

theorem adv_le (a : Word) : (adv a).toNat ≤ 0x10FE :=
  (adv_lt a).le.trans (by decide)

theorem effect_keeps_pc (hpc : s.pc.toNat ≤ 0x10FE) (hstack : ∀ k : Fin 16, s.stack[k].toNat < pcMod)
    (he : Effect s i t) : t.pc.toNat ≤ 0x10FE := by
  cases he with
  | raise hr => obtain ⟨c, rfl, -⟩ := hr; exact hpc
  | skip b =>
    rw [State.skipIf_eq]
    split <;> exact adv_le _
  | jump a ha => exact ha
  | wait => exact hpc
  | @call addr =>
    rw [State.setPc_pc, BitVec.toNat_setWidth_of_le (by decide)]
    omega
  | ret => exact (hstack s.sp).le.trans (by decide)
  | _ => simpa using adv_le _

theorem effect_keeps_stack (h : ∀ k : Fin 16, s.stack[k].toNat < pcMod) (he : Effect s i t) (k : Fin 16) :
    t.stack[k].toNat < pcMod := by
  cases he with
  | raise hr => obtain ⟨c, rfl, -⟩ := hr; exact h k
  | call =>
    rw [State.setPc_stack, State.push_stack, Fin.getElem_fin, Vector.getElem_set]
    split
    · exact adv_lt _
    · exact h k
  | _ => simpa using h k

theorem effect_keeps_fault (h : s.fault = none) (he : Effect s i t) : ∀ f, t.fault = some f → f.pcF = t.pc := by
  intro f hf
  obtain ⟨c, rfl, -⟩ | hkeep := Faults.effect_raises_or_keeps_fault he
  · cases hf
    rfl
  · rw [hkeep, h] at hf
    cases hf

/-- An instruction of a clear block keeps the invariant. -/
theorem machineInv_of_effect (h : MachineInv s) (hf : s.fault = none) (he : Effect s i t) : MachineInv t := by
  have hk := Faults.effect_keepsPlatform he
  exact ⟨effect_keeps_mem h.mem he, effect_keeps_pc h.pc h.stack he, effect_keeps_stack h.stack he,
    fun hz => Faults.effect_keeps_noneUnwritten (h.zero (hk.cfg ▸ hz)) he, hk.events ▸ h.events,
    effect_keeps_fault hf he⟩

/-! ### The invariant through a step -/

theorem machineInv_fetchFault (h : MachineInv s) : MachineInv s.fetchFault where
  mem := h.mem
  pc := h.pc
  stack := h.stack
  zero hz := Faults.noneUnwritten_congr (h.zero hz) rfl rfl rfl rfl
  events := h.events
  fault _ hf := by cases hf; rfl

theorem machineInv_skipUndefined {w : Word} (h : MachineInv s) (hf : s.fault = none) (hw : s.fetchWord? = some w)
    (hd : decodeWord w = none) : MachineInv (s.skipUndefined w) where
  mem := h.mem
  pc := adv_le _
  stack := h.stack
  zero hz := Faults.noneUnwritten_congr (h.zero hz) rfl rfl rfl rfl
  events f w' he := by
    rcases List.mem_append.1 he with he | he
    · exact h.events f w' he
    · cases List.mem_singleton.1 he
      exact ⟨hd, ((State.fetchWord?_eq_some s).1 hw).1⟩
  fault f he := by
    have : s.fault = some f := he
    rw [hf] at this
    cases this

theorem machineInv_of_cycleEffect (h : MachineInv s) (hu : CycleEffect s u) : MachineInv u := by
  have signal {v : State} {r : CycleResult} (hv : MachineInv v) : MachineInv (v.signal r) :=
    machineInv_of_keepsMachine hv (keepsMachine_signal v r)
  cases hu with
  | faulted => exact signal h
  | badFetch => exact signal (machineInv_fetchFault h)
  | undefined hf hw hd => exact signal (machineInv_skipUndefined h hf hw hd)
  | ran hf _ _ hx => exact signal (machineInv_of_effect h hf (exec_effect hx))

/-- Settles O59: the invariant holds on both sides of the cycle when it holds on one, and the rest of the step does not
touch what it speaks of. -/
theorem stepKeepsInvariant : Obligations.StepKeepsInvariant := by
  intro s t hs h
  obtain ⟨-, hk⟩ | ⟨v, u, hv, hu, ht, -⟩ := step_shape h
  · exact machineInv_of_keepsMachine hs hk
  · exact machineInv_of_keepsMachine (machineInv_of_cycleEffect (machineInv_of_keepsMachine hs hv) hu) ht

end Sys2Proof.Proofs.Invariant
end

section
/-! The order of the two clocks in a pass (R296): the timer clock writes nothing that a cycle reads, and a cycle nothing
that the timer clock reads, unless the instruction at pc reads or loads a timer. -/

namespace Sys2Proof.Proofs.ClockOrder

open Sys2Proof Sys2Proof.Machine Sys2Proof.Proofs.Passes

variable {m s t b u : State} {i : Instr} {w : Word} {x y : Reg} {out out' : Result}

/-- `s` with all that the timer clock writes taken from `m`: the timers, render and the count. -/
def timed (m s : State) : State :=
  { s with dt := m.dt, st := m.st, render := m.render, clocksIssued := m.clocksIssued }

/-! ### Operations on the state -/

theorem skipIf_timed (c : Bool) : (timed m s).skipIf c = timed m (s.skipIf c) := by
  cases c <;> rfl

theorem writeAlu_timed (x : Reg) (o : AluOut) : (timed m s).writeAlu x o = timed m (s.writeAlu x o) := by
  unfold State.writeAlu
  split <;> rfl

theorem bumpI_timed (x : Reg) : (timed m s).bumpI x = timed m (s.bumpI x) := by
  unfold State.bumpI
  rw [show (timed m s).cfg = s.cfg from rfl]
  split <;> rfl

theorem writeBytes_timed (a : Nat) (bs : List Byte) : (timed m s).writeBytes a bs = timed m (s.writeBytes a bs) := by
  induction bs generalizing s a with
  | nil => rfl
  | cons c bs ih => exact ih (s := s.writeMem a c) (a + 1)

theorem setVUpTo_timed (x : Reg) (f : Nat → Byte) : (timed m s).setVUpTo x f = timed m (s.setVUpTo x f) := by
  unfold State.setVUpTo timed
  rfl

/-! ### Reads -/

/-- A read of one cell: both sides raise, or both go on. -/
theorem read_timed {p : Prop} [Decidable p] (c : Cause) (h : out' = mapNext (timed m) out) :
    (if p then raised c (timed m s) else out') = mapNext (timed m) (if p then raised c s else out) := by
  split
  · rfl
  · exact h

theorem withV_timed {go go' : Byte → Result} (h : ∀ a, go' a = mapNext (timed m) (go a)) :
    withV x (timed m s) go' = mapNext (timed m) (withV x s go) :=
  read_timed _ (h _)

theorem withI_timed {go go' : Word → Result} (h : ∀ a, go' a = mapNext (timed m) (go a)) :
    withI (timed m s) go' = mapNext (timed m) (withI s go) :=
  read_timed _ (h _)

theorem withTop_timed {go go' : Word → Result} (h : ∀ a, go' a = mapNext (timed m) (go a)) :
    withTop (timed m s) go' = mapNext (timed m) (withTop s go) :=
  read_timed _ (h _)

theorem withKey_timed {go go' : Nat → Result} (h : ∀ k, go' k = mapNext (timed m) (go k)) :
    withKey x (timed m s) go' = mapNext (timed m) (withKey x s go) :=
  withV_timed fun _ => read_timed _ (h _)

theorem withRange_timed {base n : Nat} (h : out' = mapNext (timed m) out) :
    withRange base n (timed m s) out' = mapNext (timed m) (withRange base n s out) := by
  unfold withRange
  split
  · rfl
  · exact h

theorem withVUpTo_timed {go go' : List Byte → Result} (h : ∀ l, go' l = mapNext (timed m) (go l)) :
    withVUpTo x (timed m s) go' = mapNext (timed m) (withVUpTo x s go) := by
  unfold withVUpTo
  rw [show (timed m s).vUnwritten = s.vUnwritten from rfl]
  split
  · rfl
  · exact h _

theorem withSpriteBase_timed {n : Nat} {go go' : Nat → Result} (h : ∀ a, go' a = mapNext (timed m) (go a)) :
    withSpriteBase n (timed m s) go' = mapNext (timed m) (withSpriteBase n s go) := by
  unfold withSpriteBase
  split
  · exact h 0
  · exact withI_timed fun _ => h _

theorem drawSprite_timed (base n x0 y0 : Nat) :
    drawSprite base n x0 y0 (timed m s) = mapNext (timed m) (drawSprite base n x0 y0 s) := by
  have hp : (timed m s).pattern base n x0 y0 = s.pattern base n x0 y0 := rfl
  have hu : (timed m s).firstUnwrittenCell (s.pattern base n x0 y0) = s.firstUnwrittenCell (s.pattern base n x0 y0) :=
    rfl
  have hh : (timed m s).spriteHit base n x0 y0 = s.spriteHit base n x0 y0 := rfl
  unfold drawSprite
  rw [hp, hu, hh]
  split <;> rfl

/-! ### Instructions and cycles -/

theorem aluRegs_timed (f : AluFn) (x y : Reg) : aluRegs f x y (timed m s) = mapNext (timed m) (aluRegs f x y s) :=
  withV_timed fun _ => withV_timed fun _ => congrArg _ (writeAlu_timed (s := s.advance) ..)

theorem aluOne_timed (f : AluFn) (x : Reg) (c : Byte) : aluOne f x c (timed m s) = mapNext (timed m) (aluOne f x c s) :=
  withV_timed fun _ => congrArg _ (writeAlu_timed (s := s.advance) ..)

theorem skip_timed (c : Bool) : (.next ((timed m s).advance.skipIf c) : Result) =
    mapNext (timed m) (.next (s.advance.skipIf c)) :=
  congrArg _ (skipIf_timed (s := s.advance) c)

/-- The instruction reads or loads a timer. -/
def UsesTimer (i : Instr) : Prop := ∃ x, i = .ldVxDT x ∨ i = .ldDTVx x ∨ i = .ldSTVx x

theorem exec_timed (hi : ¬ UsesTimer i) : exec i (timed m s) = mapNext (timed m) (exec i s) := by
  cases i with
  | cls | jp | ldI => rfl
  | ldVxDT x => exact absurd ⟨x, .inl rfl⟩ hi
  | ldDTVx x => exact absurd ⟨x, .inr (.inl rfl)⟩ hi
  | ldSTVx x => exact absurd ⟨x, .inr (.inr rfl)⟩ hi
  | ret => exact read_timed _ (withTop_timed fun _ => rfl)
  | call => exact read_timed _ rfl
  | seByte | sneByte => exact withV_timed fun _ => skip_timed _
  | seReg | sneReg => exact withV_timed fun _ => withV_timed fun _ => skip_timed _
  | skp | sknp => exact withKey_timed fun _ => skip_timed _
  | ldByte => exact congrArg _ (writeAlu_timed (s := s.advance) ..)
  | rnd => exact congrArg _ (writeAlu_timed (s := s.advance.countDraw) ..)
  | ldReg =>
    simp only [exec, execLdReg]
    exact withV_timed fun _ => congrArg Host.Outcome.next (writeAlu_timed (s := s.advance) ..)
  | addByte | shr | shl => exact aluOne_timed ..
  | orReg | andReg | xorReg | addReg | subReg | subnReg => exact aluRegs_timed ..
  | jpV0 =>
    simp only [exec, execJpV0]
    exact withV_timed fun _ => rfl
  | ldF =>
    simp only [exec, execLdF]
    exact withV_timed fun _ => rfl
  | addI =>
    refine withI_timed fun _ => withV_timed fun _ => ?_
    rfl
  | drw =>
    simp only [exec, execDrw]
    exact withV_timed fun _ => withV_timed fun _ => withSpriteBase_timed fun _ => withRange_timed (drawSprite_timed ..)
  | ldVxK =>
    simp only [exec, execLdVxK]
    rw [show (timed m s).keys = s.keys from rfl]
    split <;> rfl
  | ldB =>
    simp only [exec, execLdB]
    refine withV_timed fun _ => withI_timed fun _ => withRange_timed ?_
    exact congrArg Host.Outcome.next (writeBytes_timed (s := s.advance) ..)
  | ldMemVx x =>
    simp only [exec, execLdMemVx]
    refine withI_timed fun i => withVUpTo_timed fun bytes => withRange_timed ?_
    rw [mapNext_next, ← bumpI_timed, ← writeBytes_timed]
    rfl
  | ldVxMem x =>
    simp only [exec, execLdVxMem]
    refine withI_timed fun i => withRange_timed ?_
    rw [mapNext_next, ← bumpI_timed, ← setVUpTo_timed]
    rfl

/-- The fetched word, if any, is of no instruction that reads or loads a timer. -/
def FetchesNoTimer (s : State) : Prop := ∀ w i, s.fetchWord? = some w → decodeWord w = some i → ¬ UsesTimer i

theorem cycle_timed (h : FetchesNoTimer s) : cycle (timed m s) = mapNext (timed m) (cycle s) := by
  by_cases hf : s.fault = none
  swap
  · rw [Cycle.cycle_of_faulted hf, Cycle.cycle_of_faulted (s := timed m s) hf]
    rfl
  have hfetch : (timed m s).fetchWord? = s.fetchWord? := rfl
  cases hw : s.fetchWord? with
  | none =>
    rw [Cycle.cycle_of_badFetch hf hw, Cycle.cycle_of_badFetch (s := timed m s) hf (hfetch.trans hw)]
    rfl
  | some w =>
    cases hd : decodeWord w with
    | none =>
      rw [Cycle.cycle_of_undefined hf hw hd, Cycle.cycle_of_undefined (s := timed m s) hf (hfetch.trans hw) hd]
      rfl
    | some i =>
      rw [Cycle.cycle_of_defined hf hw hd, Cycle.cycle_of_defined (s := timed m s) hf (hfetch.trans hw) hd,
        exec_timed (h w i hw hd), mapNext_mapNext, mapNext_mapNext]
      rfl

theorem cycleClock_timed {advance : Bool} (h : FetchesNoTimer s) :
    cycleClock advance (timed m s) = mapNext (timed m) (cycleClock advance s) := by
  have hdue : (timed m s).cycleDue advance = s.cycleDue advance := rfl
  unfold cycleClock
  rw [hdue]
  split
  · rw [cycle_timed h, mapNext_mapNext, mapNext_mapNext]
    rfl
  · rfl

/-! ### The timer clock after a cycle -/

/-- A cycle clock that changed no timer changed nothing that the timer clock reads. -/
structure SameForTimer (b u : State) : Prop where
  dt     : u.dt = b.dt
  st     : u.st = b.st
  mode   : u.mode = b.mode
  clocks : u.clocksIssued = b.clocksIssued
  start  : u.start = b.start
  now    : u.now = b.now
  render : u.render = b.render

theorem fireTimer_timed (h : SameForTimer b u) : u.fireTimer = timed b.fireTimer u := by
  unfold State.fireTimer
  rw [h.mode]
  split <;> simp [timed, State.tick, h.dt, h.st, h.clocks]

theorem timerClock_timed (h : SameForTimer b u) : u.timerClock = timed b.timerClock u := by
  unfold State.timerClock
  rw [timerDue_congr h.clocks h.now h.start]
  split
  · exact fireTimer_timed h
  · simp only [timed, ← h.dt, ← h.st, ← h.render, ← h.clocks]

theorem sameForTimer_of_cycleClock {advance : Bool} (hb : FetchesNoTimer b) (h : cycleClock advance b = .next u) :
    SameForTimer b u := by
  obtain ⟨-, rfl⟩ | ⟨-, v, hv, rfl⟩ := cycleClock_next h
  · constructor <;> rfl
  obtain ⟨hdt, hst⟩ := hv.timers
  obtain ⟨-, hmode, -, hclk, hstart, -, hnow, hrender, -, -, -⟩ := hv.keeps
  refine ⟨hdt.resolve_right ?_, hst.resolve_right ?_, hmode, hclk, hstart, hnow, hrender⟩
  · exact fun ⟨w, x, hw, hd⟩ => hb w _ hw hd ⟨x, .inr (.inl rfl)⟩
  · exact fun ⟨w, x, hw, hd⟩ => hb w _ hw hd ⟨x, .inr (.inr rfl)⟩

/-! ### The obligation -/

/-- Settles O52: run first, the timer clock hands the cycle a state that differs in what the cycle does not read; run
last, it finds what it would have found before. -/
theorem clockOrderMattersToTimerInstructionsOnly : Obligations.ClockOrderMattersToTimerInstructionsOnly := by
  intro s p h
  have hb : FetchesNoTimer (s.begun p) := by
    rintro w i hw hd ⟨x, hx⟩
    obtain ⟨h₁, h₂, h₃⟩ := h w i x (fetchWord?_begun p ▸ hw) hd
    exact hx.elim h₁ fun hx => hx.elim h₂ h₃
  obtain ⟨u, hu⟩ := Faults.cycleClock_answers p.advance (s.begun p)
  calc runPass { p with timerFirst := true } s
      = cycleClock p.advance (s.begun p).timerClock := rfl
    _ = cycleClock p.advance (timed (s.begun p).timerClock (s.begun p)) := by
        rw [← timerClock_timed (by constructor <;> rfl)]
    _ = mapNext (timed (s.begun p).timerClock) (cycleClock p.advance (s.begun p)) := cycleClock_timed hb
    _ = mapNext State.timerClock (cycleClock p.advance (s.begun p)) := by
        rw [hu, mapNext_next, mapNext_next, ← timerClock_timed (sameForTimer_of_cycleClock hb hu)]
    _ = runPass { p with timerFirst := false } s := rfl

end Sys2Proof.Proofs.ClockOrder
end
